-- ==== Sys2Proof/Word.lean ====
section
/-! DEFINITION. The word types of LCMSEQ (00_scope R8: bit 0 is the least significant bit; R12:
unsigned unless a rule says signed). -/

namespace Sys2Proof

/-- One byte of a response, a command byte or a status code. -/
abbrev Byte := BitVec 8

/-- A host request word `REQ16` or a packed table row `CT16` (30_encoding R70, R74). -/
abbrev Word := BitVec 16

/-- An error counter, `CNT_W` = 32 bits (00_scope R7, R11). -/
abbrev Counter := BitVec 32

/-- A 7-bit device address (10_state R21). -/
abbrev BusAddr := BitVec 7

end Sys2Proof
end

