-- ==== Sys2Proof/Config.lean ====
section
/-! DEFINITION. The parameters of 00_scope R7: the values the spec fixes, the command table and the
other OPEN parameters as one record, the codes of kinds, status codes and results, and the free
values of the transport (opaque constants, no body). -/

namespace Sys2Proof

/-- `MAXLEN`: the largest accepted read count (R7, R108). -/
abbrev maxLen : Nat := 17

/-- `MAX_PAYLOAD`: the largest ASCII payload (R7, R111). -/
abbrev maxPayload : Nat := 16

/-- `RAW_CAP`: bytes in the RAW buffer (R7, 90_conflicts C3). -/
abbrev rawCap : Nat := 18

/-- Bytes of the `OUT` field (20_memory R53). -/
abbrev outCap : Nat := 17

/-- `ENERGY_LEN`: bytes of an ENERGY response (R7, R86). -/
abbrev energyLen : Nat := 7

/-- `ROLL_MOD`: the modulus of the overflow-count byte (R7). -/
abbrev rollMod : Nat := 256

/-- `SAMP_MOD`: the modulus of the 24-bit sample counter (R7). -/
abbrev sampMod : Nat := 16777216

/-! Kind codes (30_encoding R75); 6 and 7 are reserved. -/

abbrev kindByte : BitVec 3 := 0#3
abbrev kindWord : BitVec 3 := 1#3
abbrev kindLinear11 : BitVec 3 := 2#3
abbrev kindVlinear : BitVec 3 := 3#3
abbrev kindAscii : BitVec 3 := 4#3
abbrev kindEnergy : BitVec 3 := 5#3

/-! Transport status codes (30_encoding R77); 0x09 to 0xFF are unrecognised. -/

abbrev stSuccess : Byte := 0x00#8
abbrev stOversize : Byte := 0x01#8
abbrev stAddrNack : Byte := 0x02#8
abbrev stDataNack : Byte := 0x03#8
abbrev stTimeout : Byte := 0x04#8
abbrev stArbLost : Byte := 0x05#8
abbrev stBufOvf : Byte := 0x06#8
abbrev stWrIncomplete : Byte := 0x07#8
abbrev stMisuse : Byte := 0x08#8

/-- The code that replaces `ST_SUCCESS` on a failure path (40_transaction R109). -/
abbrev stRewritten : Byte := 0xFF#8

/-- The category a status code maps to (30_encoding R77): success or one of the nine failure
categories of 10_state R24. -/
inductive Category where
  | success | oversize | addrNack | dataNack | timeout | arbLost | bufOvf | wrIncomplete | misuse
  | unknown
deriving DecidableEq, Repr

/-- The parameter `STATUS_MAP` (00_scope R7, 30_encoding R77): the transport's codes of each failure
category; any other code is unknown. The codes that LCMSEQ itself tallies are no part of it (`statusMap`;
log 12). -/
structure StatusMap where
  oversize     : List Byte
  addrNack     : List Byte
  dataNack     : List Byte
  timeout      : List Byte
  arbLost      : List Byte
  bufOvf       : List Byte
  wrIncomplete : List Byte
  misuse       : List Byte
deriving DecidableEq, Repr, Inhabited

/-- The default of `STATUS_MAP`: the table of 30_encoding R77. -/
def StatusMap.standard : StatusMap :=
  { oversize := [stOversize], addrNack := [stAddrNack], dataNack := [stDataNack], timeout := [stTimeout],
    arbLost := [stArbLost], bufOvf := [stBufOvf], wrIncomplete := [stWrIncomplete],
    misuse := [stMisuse] }

/-- The four results of an operation (00_scope R14, 30_encoding R79). -/
inductive Result where
  | success | failure | absent | refused
deriving DecidableEq, Repr

/-- A CommandSpec, one row of the command table (30_encoding R74). `kind` holds the raw 3-bit code, so
that an ill-formed row can be written down and refused (R76). -/
structure CommandSpec where
  cmd  : Byte
  len  : BitVec 5
  kind : BitVec 3
deriving DecidableEq, Repr, Inhabited

/-- The parameters of 00_scope R7 that a platform supplies. `N_CMDS` is the length of `table`. `tSettle` is
`T_SETTLE` in a unit the spec does not name (log 2). `statusMap` is `STATUS_MAP`, by default the table of
R77 (92 D5, 93 U14; log 12). -/
structure Config where
  table     : List CommandSpec
  idxVmode  : Option (BitVec 8)
  ceiling   : Nat
  tSettle   : Nat
  statusMap : StatusMap := StatusMap.standard
deriving DecidableEq, Repr, Inhabited

/-- `N_CMDS` (00_scope R7, 20_memory R50). -/
abbrev Config.nCmds (c : Config) : Nat := c.table.length

/-- The parameters of the instance that `State.reset` describes: open, so no value is given
(DESIGN CHOICE, log 2). -/
opaque Config.platform : Config

/-! Free values: what the transport answers where the script of the state gives no answer
(20_memory R67; DESIGN CHOICE, log 3). The argument is the counter `env.draws`. -/

/-- Any `count_written` of `T.write_byte`. -/
opaque Config.freeCount : Nat → Nat

/-- Any bytes and status of `T.read`. -/
opaque Config.freeRead : Nat → List Byte × Byte

/-- Any status code of `T.last_status`. -/
opaque Config.freeStatus : Nat → Byte

end Sys2Proof
end

