-- ==== Sys2Proof/Syntax.lean ====
section
/-! DEFINITION. The instruction set: one constructor per row of spec/opcode_table.json, the four
formats its words come in, and the mnemonics. -/

namespace Sys2Proof

/-- The rows of the opcode table. The first six are host requests (format REQ16, 30_encoding R71);
the others are micro-operations that the sequencer selects itself: a decoder by `RESP_KIND` (KIND3,
R75), the energy update by the table row (CT16, R74), a tally rule by the status code (ST8, R77). The
seven `tallyUnknown…` constructors are the seven rows that cover the unrecognised codes 0x09 to 0xFF;
`low` is what the row leaves free of the code. -/
inductive Instr where
  | setaddr (a : BusAddr)
  | probe
  | cmd (i : BitVec 8)
  | fetchexp
  | decode
  | reset
  | decByte
  | decWord
  | decLinear11
  | decVlinear
  | decAscii
  | decEnergy
  | energyUpdate (len : BitVec 5) (cmd : Byte)
  | tallySuccess
  | tallyOversize
  | tallyAddrNack
  | tallyDataNack
  | tallyTimeout
  | tallyArbLost
  | tallyBufOvf
  | tallyWrIncomplete
  | tallyMisuse
  | tallyUnknown09
  | tallyUnknown0A (low : BitVec 1)
  | tallyUnknown0C (low : BitVec 2)
  | tallyUnknown10 (low : BitVec 4)
  | tallyUnknown20 (low : BitVec 5)
  | tallyUnknown40 (low : BitVec 6)
  | tallyUnknown80 (low : BitVec 7)
deriving DecidableEq, Repr

/-- An instruction word in one of the four formats of the opcode table. -/
inductive FetchWord where
  | req16 (w : Word)
  | kind3 (k : BitVec 3)
  | ct16 (w : Word)
  | st8 (code : Byte)
deriving DecidableEq, Repr

/-- The mnemonic of a constructor's row, as spec/opcode_table.json spells it. -/
def Instr.mnemonic : Instr → String
  | .setaddr _ => "SETADDR"
  | .probe => "PROBE"
  | .cmd _ => "CMD"
  | .fetchexp => "FETCHEXP"
  | .decode => "DECODE"
  | .reset => "RESET"
  | .decByte => "DEC.BYTE"
  | .decWord => "DEC.WORD"
  | .decLinear11 => "DEC.LINEAR11"
  | .decVlinear => "DEC.VLINEAR"
  | .decAscii => "DEC.ASCII"
  | .decEnergy => "DEC.ENERGY"
  | .energyUpdate _ _ => "ENERGY.UPDATE"
  | .tallySuccess => "TALLY.SUCCESS"
  | .tallyOversize => "TALLY.OVERSIZE"
  | .tallyAddrNack => "TALLY.ADDR_NACK"
  | .tallyDataNack => "TALLY.DATA_NACK"
  | .tallyTimeout => "TALLY.TIMEOUT"
  | .tallyArbLost => "TALLY.ARB_LOST"
  | .tallyBufOvf => "TALLY.BUF_OVF"
  | .tallyWrIncomplete => "TALLY.WR_INCOMPLETE"
  | .tallyMisuse => "TALLY.MISUSE"
  | .tallyUnknown09 => "TALLY.UNKNOWN"
  | .tallyUnknown0A _ => "TALLY.UNKNOWN"
  | .tallyUnknown0C _ => "TALLY.UNKNOWN"
  | .tallyUnknown10 _ => "TALLY.UNKNOWN"
  | .tallyUnknown20 _ => "TALLY.UNKNOWN"
  | .tallyUnknown40 _ => "TALLY.UNKNOWN"
  | .tallyUnknown80 _ => "TALLY.UNKNOWN"

end Sys2Proof
end

