-- ==== Sys2Proof/WellFormed.lean ====
section
/-! DEFINITION. Well-formedness: of a command table row and of the whole configuration (30_encoding
R76, 00_scope R7), and of an instruction. -/

namespace Sys2Proof

/-- A table row is well-formed (R76): a kind that is not reserved, and the declared length its kind
prescribes. -/
def CommandSpec.wf (r : CommandSpec) : Bool :=
  if r.kind = kindByte then r.len == 1#5
  else if r.kind = kindWord ∨ r.kind = kindLinear11 ∨ r.kind = kindVlinear then r.len == 2#5
  else if r.kind = kindAscii then 3 ≤ r.len.toNat && r.len.toNat ≤ maxLen
  else if r.kind = kindEnergy then r.len == 7#5
  else false

/-- `IDX_VMODE` is NONE, or names a row of kind BYTE (R76, 00_scope R7). -/
def Config.vmodeOk (c : Config) : Bool :=
  match c.idxVmode with
  | none => true
  | some i =>
    match c.table[i.toNat]? with
    | none => false
    | some r => r.kind == kindByte

/-- When the table has a VLINEAR row, `IDX_VMODE` is not NONE (R76). -/
def Config.vlinearOk (c : Config) : Bool :=
  c.idxVmode.isSome || c.table.all fun r => r.kind != kindVlinear

/-- The configuration is well-formed: 1 to 256 rows, all well-formed, the mode command as R76 asks,
1 ≤ `CEILING` ≤ 65536, and `T_SETTLE` > 0 (00_scope R7). -/
def Config.wf (c : Config) : Bool :=
  (1 ≤ c.nCmds && c.nCmds ≤ 256) && c.table.all CommandSpec.wf && c.vmodeOk && c.vlinearOk
    && (1 ≤ c.ceiling && c.ceiling ≤ 65536) && 0 < c.tSettle

/-- An instruction is well-formed: the widths of its operands are its type's; the one further check is
that the row ENERGY.UPDATE is selected by is a well-formed table row, of declared length 7 (R76). -/
def Instr.wf : Instr → Bool
  | .energyUpdate len b => CommandSpec.wf { cmd := b, len := len, kind := kindEnergy }
  | .setaddr _ | .probe | .cmd _ | .fetchexp | .decode | .reset => true
  | .decByte | .decWord | .decLinear11 | .decVlinear | .decAscii | .decEnergy => true
  | .tallySuccess | .tallyOversize | .tallyAddrNack | .tallyDataNack | .tallyTimeout => true
  | .tallyArbLost | .tallyBufOvf | .tallyWrIncomplete | .tallyMisuse => true
  | .tallyUnknown09 | .tallyUnknown0A _ | .tallyUnknown0C _ | .tallyUnknown10 _ => true
  | .tallyUnknown20 _ | .tallyUnknown40 _ | .tallyUnknown80 _ => true

end Sys2Proof
end

