-- ==== Sys2Proof/Decode.lean ====
section
/-! DEFINITION. The decoder of the four formats, total, rejecting by name, and after it the encoder;
the packing of table rows (30_encoding R70 to R77). -/

namespace Sys2Proof

/-- Why a word is no instruction. The first four are the illegal requests of 30_encoding R73. -/
inductive DecodeError where
  /-- `op` is 0x0 or 0x6 to 0xE. -/
  | reservedOp
  /-- `zero` is not 0. -/
  | zeroField
  /-- `arg[7]` is 1 in SETADDR. -/
  | addressBit7
  /-- `arg` is not 0 in PROBE, FETCHEXP, DECODE or RESET. -/
  | argNotZero
  /-- Kind 6 or 7 (R75). -/
  | reservedKind
  /-- A table row whose kind is not ENERGY selects no micro-operation (R74). -/
  | notEnergyRow
deriving DecidableEq, Repr

/-! ## Fields -/

/-- `op`, bits 15:12 of a request word (R70). -/
def reqOp (w : Word) : BitVec 4 := w.extractLsb' 12 4

/-- `zero`, bits 11:8 of a request word (R70). -/
def reqZero (w : Word) : BitVec 4 := w.extractLsb' 8 4

/-- `arg`, bits 7:0 of a request word (R70, R72). -/
def reqArg (w : Word) : BitVec 8 := w.extractLsb' 0 8

/-- The packed form `CT16` of a table row: kind 15:13, len 12:8, cmd 7:0 (R74). -/
def CommandSpec.pack (r : CommandSpec) : Word := r.kind ++ r.len ++ r.cmd

/-- A table row from its packed form (R74). -/
def CommandSpec.unpack (w : Word) : CommandSpec :=
  { cmd := w.extractLsb' 0 8, len := w.extractLsb' 8 5, kind := w.extractLsb' 13 3 }

/-! ## Decoder -/

/-- A request without operand: `arg` must be 0 (R72, R73). -/
def decodeNoArg (i : Instr) (arg : BitVec 8) : Except DecodeError Instr :=
  if arg = 0 then .ok i else .error .argNotZero

/-- The request of a 16-bit word, or why it is illegal (R71 to R73). -/
def decodeReq16 (w : Word) : Except DecodeError Instr :=
  let arg := reqArg w
  if reqZero w ≠ 0 then .error .zeroField
  else if reqOp w = 0x1 then
    if arg.extractLsb' 7 1 = 0 then .ok (.setaddr (arg.extractLsb' 0 7)) else .error .addressBit7
  else if reqOp w = 0x2 then decodeNoArg .probe arg
  else if reqOp w = 0x3 then .ok (.cmd arg)
  else if reqOp w = 0x4 then decodeNoArg .fetchexp arg
  else if reqOp w = 0x5 then decodeNoArg .decode arg
  else if reqOp w = 0xF then decodeNoArg .reset arg
  else .error .reservedOp

/-- The decoder a kind selects (R75, 41_decoders R130). -/
def decodeKind3 (k : BitVec 3) : Except DecodeError Instr :=
  if k = kindByte then .ok .decByte
  else if k = kindWord then .ok .decWord
  else if k = kindLinear11 then .ok .decLinear11
  else if k = kindVlinear then .ok .decVlinear
  else if k = kindAscii then .ok .decAscii
  else if k = kindEnergy then .ok .decEnergy
  else .error .reservedKind

/-- The micro-operation a packed table row selects after a successful CMD (R74, 40_transaction
R113): ENERGY.UPDATE when its kind field is 5. -/
def decodeCt16 (w : Word) : Except DecodeError Instr :=
  let r := CommandSpec.unpack w
  if r.kind = kindEnergy then .ok (.energyUpdate r.len r.cmd) else .error .notEnergyRow

/-- The tally rule of a status code, by the masks and patterns of the sixteen ST8 rows (R77, R78):
every code has exactly one. -/
def decodeSt8 (c : Byte) : Instr :=
  if c = stSuccess then .tallySuccess
  else if c = stOversize then .tallyOversize
  else if c = stAddrNack then .tallyAddrNack
  else if c = stDataNack then .tallyDataNack
  else if c = stTimeout then .tallyTimeout
  else if c = stArbLost then .tallyArbLost
  else if c = stBufOvf then .tallyBufOvf
  else if c = stWrIncomplete then .tallyWrIncomplete
  else if c = stMisuse then .tallyMisuse
  else if c = 0x09#8 then .tallyUnknown09
  else if c &&& 0xFE#8 = 0x0A#8 then .tallyUnknown0A (c.extractLsb' 0 1)
  else if c &&& 0xFC#8 = 0x0C#8 then .tallyUnknown0C (c.extractLsb' 0 2)
  else if c &&& 0xF0#8 = 0x10#8 then .tallyUnknown10 (c.extractLsb' 0 4)
  else if c &&& 0xE0#8 = 0x20#8 then .tallyUnknown20 (c.extractLsb' 0 5)
  else if c &&& 0xC0#8 = 0x40#8 then .tallyUnknown40 (c.extractLsb' 0 6)
  else .tallyUnknown80 (c.extractLsb' 0 7)

/-- The decoder: total on every word of every format. -/
def decode : FetchWord → Except DecodeError Instr
  | .req16 w => decodeReq16 w
  | .kind3 k => decodeKind3 k
  | .ct16 w => decodeCt16 w
  | .st8 c => .ok (decodeSt8 c)

/-! ## Encoder -/

/-- The word of an instruction, from the opcode table's match values. -/
def encode : Instr → FetchWord
  | .setaddr a => .req16 (0b000100000#9 ++ a)
  | .probe => .req16 0x2000
  | .cmd i => .req16 (0x30#8 ++ i)
  | .fetchexp => .req16 0x4000
  | .decode => .req16 0x5000
  | .reset => .req16 0xF000
  | .decByte => .kind3 0
  | .decWord => .kind3 1
  | .decLinear11 => .kind3 2
  | .decVlinear => .kind3 3
  | .decAscii => .kind3 4
  | .decEnergy => .kind3 5
  | .energyUpdate len cmd => .ct16 (CommandSpec.pack { cmd, len, kind := kindEnergy })
  | .tallySuccess => .st8 0x00
  | .tallyOversize => .st8 0x01
  | .tallyAddrNack => .st8 0x02
  | .tallyDataNack => .st8 0x03
  | .tallyTimeout => .st8 0x04
  | .tallyArbLost => .st8 0x05
  | .tallyBufOvf => .st8 0x06
  | .tallyWrIncomplete => .st8 0x07
  | .tallyMisuse => .st8 0x08
  | .tallyUnknown09 => .st8 0x09
  | .tallyUnknown0A low => .st8 (0b0000101#7 ++ low)
  | .tallyUnknown0C low => .st8 (0b000011#6 ++ low)
  | .tallyUnknown10 low => .st8 (0b0001#4 ++ low)
  | .tallyUnknown20 low => .st8 (0b001#3 ++ low)
  | .tallyUnknown40 low => .st8 (0b01#2 ++ low)
  | .tallyUnknown80 low => .st8 (0b1#1 ++ low)

/-! ## The host's table words -/

/-- Which format a bare word of the opcode table is read in, given only its width (log 10): at most
four bits KIND3, at most eight ST8, else REQ16, or CT16 where the word is no request and its kind
field is ENERGY. DESIGN CHOICE: an eight-bit word is read as ST8, since KIND3 has three bits. -/
def tableWord (nbits w : Nat) : FetchWord :=
  if nbits ≤ 4 then .kind3 (BitVec.ofNat 3 w)
  else if nbits ≤ 8 then .st8 (BitVec.ofNat 8 w)
  else
    match decodeReq16 (BitVec.ofNat 16 w), decodeCt16 (BitVec.ofNat 16 w) with
    | .error _, .ok _ => .ct16 (BitVec.ofNat 16 w)
    | _, _ => .req16 (BitVec.ofNat 16 w)

/-- The instruction the decoder reads from an instruction whose bits are `w`. -/
def decodeTableWord (nbits w : Nat) : Option Instr :=
  (decode (tableWord nbits w)).toOption

end Sys2Proof
end

