-- ==== Sys2Proof/Machine/State.lean ====
section
/-! DEFINITION. The state of LCMSEQ: `Arch` holds exactly the elements of 10_state R20; beside it stand
what a transaction in progress carries (`Flight`), the world outside (`Env`: the host's inputs, the
transport's answers, the event history, the responses) and the parameters (`Config`). Reset is
10_state R38. -/

namespace Sys2Proof.Machine

/-- No fault: "A model has no fault state for LCMSEQ" (60_exceptions R180). The type has no constructor,
so no step can answer one. -/
inductive Fault
deriving DecidableEq, Repr

/-- Why a step, or a construction, has no meaning. -/
inductive Refusal where
  /-- Raised by an arm of `exec` whose instruction has no meaning yet (none is left); safe. -/
  | notModelled (mnemonic : String)
  /-- Raised by `construct` on a command table or parameter that 30_encoding R76 calls ill-formed
  ("a model refuses an ill-formed table at construction"); safe. -/
  | illFormedTable
deriving DecidableEq, Repr

/-- The position of the sequencer (10_state R34), in the order an operation passes through. -/
inductive Phase where
  | idle | check | settle | wrOpen | wrByte | wrClose | rd | rdStatus | store | tally | accum | done
deriving DecidableEq, Repr

/-- The eleven saturating error counters (10_state R24). -/
structure Counters where
  wrIncomplete : Counter
  oversize     : Counter
  timeout      : Counter
  addrNack     : Counter
  dataNack     : Counter
  arbLost      : Counter
  bufOvf       : Counter
  unknown      : Counter
  misuse       : Counter
  totalErr     : Counter
  totalOk      : Counter
deriving DecidableEq, Repr

/-- The RAW buffer, 18 bytes (10_state R26). -/
abbrev RawBuf := Vector Byte rawCap

/-- The architectural state: exactly the elements of 10_state R20. -/
structure Arch where
  /-- `ADDR` (R21) -/
  addr : BusAddr
  /-- `EXISTS` (R22) -/
  existsFlag : Bool
  /-- `LAST_STATUS` (R23) -/
  lastStatus : Byte
  /-- the error-counter file (R24, R25) -/
  cnt : Counters
  /-- `RAW[0..17]` (R26) -/
  raw : RawBuf
  /-- `RESP_VALID` (R27) -/
  respValid : Bool
  /-- `RESP_LEN` (R27) -/
  respLen : BitVec 5
  /-- `RESP_KIND` (R27) -/
  respKind : BitVec 3
  /-- `RESP_IDX` (R27) -/
  respIdx : BitVec 8
  /-- `ASCII_OK` (R27) -/
  asciiOk : Bool
  /-- `VEXP`, two's complement (R28) -/
  vexp : BitVec 5
  /-- `EXP_VALID` (R29) -/
  expValid : Bool
  /-- `E_ACC` (R30) -/
  eAcc : BitVec 16
  /-- `E_ROLL` (R30) -/
  eRoll : BitVec 8
  /-- `E_SAMP` (R30) -/
  eSamp : BitVec 24
  /-- `E_LAST_ACC` (R31) -/
  eLastAcc : BitVec 16
  /-- `E_LAST_ROLL` (R31) -/
  eLastRoll : BitVec 8
  /-- `E_LAST_SAMP` (R31) -/
  eLastSamp : BitVec 24
  /-- `E_COUNT` (R32) -/
  eCount : BitVec 32
  /-- `AVG_POWER`, the exact rational (R33) -/
  avgPower : Rat
  /-- `AVG_VALID` (R33) -/
  avgValid : Bool
  /-- `PHASE` (R34) -/
  phase : Phase
  /-- `CUR_IDX` (R34) -/
  curIdx : BitVec 8
deriving DecidableEq, Repr

/-- The handle of a write phase: opaque to LCMSEQ (00_scope R10), named by which `T.open_write` call
returned it (log 6). -/
structure Handle where
  opening : Nat
deriving DecidableEq, Repr

/-- Which operation is in progress: the ones that pass through phases of their own. -/
inductive Op where
  | cmd | fetchexp | probe | decode
deriving DecidableEq, Repr

/-- What an operation in progress carries from phase to phase: the local variables of the pseudocode of
R100 and R172 (MODEL's own fields, log 8). -/
structure Flight where
  op     : Op
  handle : Handle
  cw     : Nat
  bytes  : List Byte
  code   : Byte
  result : Result
deriving DecidableEq, Repr

/-- An entry of the call history (20_memory R67): a transport call with its arguments and its answer, a
settle wait, or the reset signal. -/
inductive Event where
  /-- `Settle()`: a wait of `T_SETTLE` (40_transaction R103). -/
  | settle (wait : Nat)
  /-- `T.open_write(address)` and the handle it returned. -/
  | openWrite (address : BusAddr) (h : Handle)
  /-- `T.write_byte(handle, byte)` and the count written. -/
  | writeByte (h : Handle) (byte : Byte) (cw : Nat)
  /-- `T.close_write(handle, release_bus)`. -/
  | closeWrite (h : Handle) (release : Bool)
  /-- `T.read(address, count)` and the bytes and status it returned. -/
  | read (address : BusAddr) (count : Nat) (bytes : List Byte) (rstatus : Byte)
  /-- `T.last_status()` and the code it returned. -/
  | lastStatus (code : Byte)
  /-- The reset signal acted here (70 R200); no call. -/
  | rst
deriving DecidableEq, Repr

/-- One answer of the transport, in call order (30_encoding R91). `stall p` says that the call of phase `p`
has not returned yet: the step ends there and the next one goes on with the same call (log 4). -/
inductive Answer where
  | cw (n : Nat)
  | rd (bytes : List Byte) (rstatus : Byte)
  | ls (code : Byte)
  | stall (call : Phase)
deriving DecidableEq, Repr

/-- What the outside offers the block: a request word (R70), or the reset signal (70 R200). -/
inductive HostInput where
  | request (w : Word)
  | rst
deriving DecidableEq, Repr

/-- The response record (30_encoding R80); `mant` and `exp` are two's complement. Fields that are not
valid are zero. -/
structure Response where
  result : Result
  vkind  : BitVec 3 := 0
  uval   : BitVec 16 := 0
  mant   : BitVec 17 := 0
  exp    : BitVec 6 := 0
  f32    : BitVec 32 := 0
  slen   : BitVec 5 := 0
  out    : Vector Byte outCap := Vector.replicate outCap 0
  eAcc   : BitVec 16 := 0
  eRoll  : BitVec 8 := 0
  eSamp  : BitVec 24 := 0
deriving DecidableEq, Repr

/-- The world outside the block (MODEL's own fields, log 3 to 7). -/
structure Env where
  /-- inputs not yet taken, oldest first -/
  inbox : List HostInput
  /-- the transport's answers to come -/
  script : List Answer
  /-- the event history, oldest first -/
  history : List Event
  /-- the response records, oldest first -/
  responses : List Response
  /-- the values `PHASE` has taken, oldest first -/
  phases : List Phase
  /-- how many free values were drawn -/
  draws : Nat
  /-- how many write phases were opened -/
  opens : Nat
deriving DecidableEq, Repr

/-- The state of one LCMSEQ instance in its surroundings. -/
structure State where
  arch   : Arch
  flight : Flight
  env    : Env
  cfg    : Config
deriving DecidableEq, Repr

/-- All eleven counters at 0 (10_state R38). -/
def Counters.zero : Counters :=
  { wrIncomplete := 0, oversize := 0, timeout := 0, addrNack := 0, dataNack := 0, arbLost := 0,
    bufOvf := 0, unknown := 0, misuse := 0, totalErr := 0, totalOk := 0 }

/-- Every element at its reset value (10_state R38). -/
def Arch.reset : Arch :=
  { addr := 0, existsFlag := false, lastStatus := stSuccess, cnt := Counters.zero,
    raw := Vector.replicate rawCap 0, respValid := false, respLen := 0, respKind := kindByte,
    respIdx := 0, asciiOk := false, vexp := 0, expValid := false, eAcc := 0, eRoll := 0, eSamp := 0,
    eLastAcc := 0, eLastRoll := 0, eLastSamp := 0, eCount := 0, avgPower := 0, avgValid := false,
    phase := .idle, curIdx := 0 }

/-- No operation in progress; the result latched is one after which no energy update is due (DESIGN CHOICE,
log 8). -/
def Flight.reset : Flight :=
  { op := .cmd, handle := { opening := 0 }, cw := 0, bytes := [], code := 0, result := .failure }

/-- Nothing offered, nothing scripted, nothing recorded (DESIGN CHOICE, log 3 to 7). -/
def Env.empty : Env :=
  { inbox := [], script := [], history := [], responses := [], phases := [], draws := 0, opens := 0 }

/-- The machine right after reset (10_state R38), its parameters open (log 2). -/
def State.reset : State :=
  { arch := Arch.reset, flight := Flight.reset, env := Env.empty, cfg := Config.platform }

end Sys2Proof.Machine
end

