-- ==== Sys2Proof/Machine/Binary32.lean ====
section
/-! DEFINITION. The binary32 views: of a decoded value `m * 2^e`, exact (41_decoders R139), and of the
average power, rounded once, to nearest, ties to even (42_energy R164). -/

namespace Sys2Proof.Machine

/-- The sign bit in place. -/
def f32Sign (negative : Bool) : Nat := if negative then 2 ^ 31 else 0

/-- The binary32 that equals `m * 2^e`, for `|m| < 2^24` and a value in the normal range (R139: always
so for the two linear decoders). Zero is positive. -/
def f32OfDyadic (m e : Int) : BitVec 32 :=
  if m = 0 then 0
  else
    let a := m.natAbs
    let k := a.log2
    let biased := (e + k + 127).toNat
    BitVec.ofNat 32 (f32Sign (m < 0) + biased * 2 ^ 23 + (a * 2 ^ (23 - k) - 2 ^ 23))

/-- `n / d` rounded to the nearest integer, ties to even. -/
def roundNearestEven (n d : Nat) : Nat :=
  let q := n / d
  let r := n % d
  if 2 * r < d then q
  else if d < 2 * r then q + 1
  else if q % 2 = 0 then q else q + 1

/-- The exponent `x` with `2^x ≤ n / d < 2^(x+1)`, for `n` and `d` not zero. -/
def floorLog2 (n d : Nat) : Int :=
  let x : Int := (n.log2 : Int) - d.log2
  if n * 2 ^ (-x).toNat < d * 2 ^ x.toNat then x - 1 else x

/-- The binary32 nearest to `q`, ties to even, for a `q` that is zero or in the normal range (R164:
always so for the average power). Zero is positive. -/
def f32OfRat (q : Rat) : BitVec 32 :=
  if q.num = 0 then 0
  else
    let n := q.num.natAbs
    let d := q.den
    let x := floorLog2 n d
    let sig := roundNearestEven (n * 2 ^ (23 - x).toNat) (d * 2 ^ (x - 23).toNat)
    BitVec.ofNat 32 (f32Sign (q.num < 0) + (x + 127).toNat * 2 ^ 23 + (sig - 2 ^ 23))

/-- The value of a finite binary32 (R139: sign 1 bit, biased exponent 8, fraction 23). -/
def f32Value (b : BitVec 32) : Rat :=
  let ex := (b.extractLsb' 23 8).toNat
  let fr := (b.extractLsb' 0 23).toNat
  let mag : Rat := if ex = 0 then mkRat (2 * fr) (2 ^ 150) else mkRat ((2 ^ 23 + fr) * 2 ^ ex) (2 ^ 150)
  if b.msb then -mag else mag

/-- The register view of `AVG_POWER` (R33, R164). -/
def avgPowerView (a : Arch) : BitVec 32 := f32OfRat a.avgPower

end Sys2Proof.Machine
end

