-- ==== Sys2Proof/Machine/Operands.lean ====
section
/-! DEFINITION. Operand forms: the RAW buffer byte by byte, the words and fields assembled from it
(20_memory R52 to R57, 30_encoding R81 to R88), and the row of the current transaction. -/

namespace Sys2Proof.Machine

/-! ## RAW (20_memory R52) -/

/-- `RAW[k]`; no rule forms an index above 17. -/
def readRaw (raw : RawBuf) (k : Nat) : Byte := raw.getD k 0

/-- `RAW[k] <- b`. -/
def writeRaw (raw : RawBuf) (k : Nat) (b : Byte) : RawBuf := raw.setIfInBounds k b

/-- `RAW[k], RAW[k+1], … <- bytes`, in transfer order (40_transaction R110). -/
def storeBytes (raw : RawBuf) (k : Nat) : List Byte → RawBuf
  | [] => raw
  | b :: bs => storeBytes (writeRaw raw k b) (k + 1) bs

/-! ## Fields of a response -/

/-- `W = RAW[1] ++ RAW[0]` (20_memory R56). -/
def rawWord (raw : RawBuf) : BitVec 16 := readRaw raw 1 ++ readRaw raw 0

/-- `E5 = W[15:11]` (30_encoding R83). -/
def linearExp (w : BitVec 16) : BitVec 5 := w.extractLsb' 11 5

/-- `M11 = W[10:0]` (R83). -/
def linearMant (w : BitVec 16) : BitVec 11 := w.extractLsb' 0 11

/-- The voltage exponent in a mode byte, bits 4:0 (R87). -/
def modeExp (b : Byte) : BitVec 5 := b.extractLsb' 0 5

/-- The ASCII count, byte 0 (R85). -/
def asciiCount (raw : RawBuf) : Nat := (readRaw raw 0).toNat

/-- The accumulator of an ENERGY block, bytes 1 and 2 (R86). -/
def energyAcc (raw : RawBuf) : BitVec 16 := readRaw raw 2 ++ readRaw raw 1

/-- The overflow count of an ENERGY block, byte 3 (R86). -/
def energyRoll (raw : RawBuf) : BitVec 8 := readRaw raw 3

/-- The sample count of an ENERGY block, bytes 4 to 6 (R86). -/
def energySamp (raw : RawBuf) : BitVec 24 := readRaw raw 6 ++ readRaw raw 5 ++ readRaw raw 4

/-- `OUT[j]` of an ASCII decode: the payload, then zeros (41_decoders R136). -/
def asciiOut (raw : RawBuf) (count : Nat) : Vector Byte outCap :=
  Vector.ofFn fun j => if j.val < count then readRaw raw (j.val + 1) else 0

/-! ## The table row in use -/

/-- `CT[i]` for the latched index `CUR_IDX` (40_transaction R100). The zero row stands for an index that
addresses nothing; no transaction is begun on one (R101; log 17). -/
def curRow (s : State) : CommandSpec := s.cfg.table.getD s.arch.curIdx.toNat default

end Sys2Proof.Machine
end

