-- ==== Sys2Proof/Machine/Flags.lean ====
section
/-! DEFINITION. Every test that decides a flag or a result: STATUS_MAP and the existence policy, the
success criterion of the read phase, the ASCII check, the decode preconditions, the result of a
probe. -/

namespace Sys2Proof.Machine

/-- `STATUS_MAP(code)` under the configured map `m`, closed and total (30_encoding R77, R78). The codes that
LCMSEQ itself tallies keep their category under every map: `ST_SUCCESS` (40_transaction R112, R117, R127),
`ST_WR_INCOMPLETE` (R105, R124), and the 0xFF of R109, which counts as unknown (DESIGN CHOICE, log 12). A
code listed under two categories belongs to the first. -/
def statusMap (m : StatusMap) (code : Byte) : Category :=
  if code = stSuccess then .success
  else if code = stWrIncomplete then .wrIncomplete
  else if code = stRewritten then .unknown
  else if code ∈ m.oversize then .oversize
  else if code ∈ m.addrNack then .addrNack
  else if code ∈ m.dataNack then .dataNack
  else if code ∈ m.timeout then .timeout
  else if code ∈ m.arbLost then .arbLost
  else if code ∈ m.bufOvf then .bufOvf
  else if code ∈ m.wrIncomplete then .wrIncomplete
  else if code ∈ m.misuse then .misuse
  else .unknown

/-- The configured map puts `code` where the table of R77 puts it, so that the ST8 row of the code is its
tally rule. -/
def followsTable (m : StatusMap) (code : Byte) : Bool :=
  statusMap m code == statusMap StatusMap.standard code

/-- The three categories that clear `EXISTS` (40_transaction R128). -/
def clearsExists : Category → Bool
  | .addrNack | .timeout | .arbLost => true
  | .success | .oversize | .dataNack | .bufOvf | .wrIncomplete | .misuse | .unknown => false

/-- The success criterion of the read phase (40_transaction R108). -/
def readOk (bytes : List Byte) (rstatus : Byte) : Bool :=
  rstatus = stSuccess && 1 ≤ bytes.length && bytes.length ≤ maxLen

/-- The code tallied after a failed read phase: `ST_SUCCESS` is replaced by 0xFF (R109). -/
def failureCode (code : Byte) : Byte := if code = stSuccess then stRewritten else code

/-- The ASCII count is within what was received (R111). -/
def asciiFits (count n : Nat) : Bool := count ≤ maxPayload && count + 1 ≤ n

/-- The preconditions common to the decoders that read `need` bytes (41_decoders R131). -/
def respHas (a : Arch) (need : Nat) : Bool := a.respValid && need ≤ a.respLen.toNat

/-- The two-bit code of a result in a response record (30_encoding R79). -/
def resultCode (r : Result) : BitVec 2 :=
  match r with
  | .success => 0
  | .failure => 1
  | .absent => 2
  | .refused => 3

/-- The result of a probe whose status code was `code`, `existsAfter` being `EXISTS` after the tally
(43_management R172). -/
def probeResult (code : Byte) (existsAfter : Bool) : Result :=
  if code = stSuccess then .success else if existsAfter then .failure else .absent

end Sys2Proof.Machine
end

