-- ==== Sys2Proof/Machine/Ops.lean ====
section
/-! DEFINITION. The named operations over the state: phases, the event history, the transport's answers,
the end of an operation (`finish`, `refuse`: what stands where a processor has exceptions, 60_exceptions
R180), saturating counters, and reset. -/

namespace Sys2Proof.Machine

/-! ## Counters -/

/-- `satinc` (00_scope R11). -/
def satinc (c : Counter) : Counter := if c.toNat < 2 ^ 32 - 1 then c + 1 else c

/-! ## The sequencer's position, the history and the responses -/

/-- `PHASE <- p` (10_state R34). -/
def enter (p : Phase) (s : State) : State :=
  { s with arch := { s.arch with phase := p }, env := { s.env with phases := s.env.phases ++ [p] } }

/-- One more entry of the event history (20_memory R67). -/
def logEvent (e : Event) (s : State) : State :=
  { s with env := { s.env with history := s.env.history ++ [e] } }

/-- Hand one response record to the host (30_encoding R80). -/
def respond (r : Response) (s : State) : State :=
  { s with env := { s.env with responses := s.env.responses ++ [r] } }

/-- The record of an operation that yields no value (R80). -/
def resultOnly (r : Result) : Response := { result := r }

/-- The end of every operation: `DONE`, the response, `IDLE` (10_state R34, 40_transaction R114). -/
def finish (r : Response) (s : State) : State := enter .idle (respond r (enter .done s))

/-- `refuse(reason)`: result `Refused`, no state changed; the record does not carry the reason
(00_scope R9, 43_management R175). -/
def refuse (s : State) : State := finish (resultOnly .refused) s

/-- An operation begins: `CHECK`, with the operation latched (10_state R34). -/
def start (op : Op) (s : State) : State :=
  enter .check { s with flight := { s.flight with op := op } }

/-! ## The transport's answers (20_memory R67, 30_encoding R91) -/

/-- The call the sequencer stands at has not returned yet (log 4). The call that a stall falls on is named by
its phase, since settle, open_write and close_write take no other entry of the script. -/
def stalled (s : State) : Bool :=
  match s.env.script with
  | .stall p :: _ => p == s.arch.phase
  | _ => false

/-- One step of waiting has passed. -/
def unstall (s : State) : State :=
  { s with env := { s.env with script := s.env.script.tail } }

/-- The answer of `T.write_byte`: the script's, else a free value. -/
def countAnswer (s : State) : Nat × State :=
  match s.env.script with
  | .cw n :: rest => (n, { s with env := { s.env with script := rest } })
  | _ => (Config.freeCount s.env.draws, { s with env := { s.env with draws := s.env.draws + 1 } })

/-- The answer of `T.read`: the script's, else a free value. -/
def readAnswer (s : State) : (List Byte × Byte) × State :=
  match s.env.script with
  | .rd bytes st :: rest => ((bytes, st), { s with env := { s.env with script := rest } })
  | _ => (Config.freeRead s.env.draws, { s with env := { s.env with draws := s.env.draws + 1 } })

/-- The answer of `T.last_status`: the script's, else a free value. -/
def statusAnswer (s : State) : Byte × State :=
  match s.env.script with
  | .ls code :: rest => (code, { s with env := { s.env with script := rest } })
  | _ => (Config.freeStatus s.env.draws, { s with env := { s.env with draws := s.env.draws + 1 } })

/-! ## The six calls (00_scope R10), each recorded with its answer

A call enters the history when it returns, with its answer (20_memory R67); one that the reset signal cuts
off before it returns leaves no event (DESIGN CHOICE, log 26). -/

/-- `Settle()` (40_transaction R103). -/
def callSettle (s : State) : State := logEvent (.settle s.cfg.tSettle) s

/-- `T.open_write(ADDR)`; its handle is latched. -/
def callOpenWrite (s : State) : State :=
  let h : Handle := { opening := s.env.opens }
  logEvent (.openWrite s.arch.addr h)
    { s with flight := { s.flight with handle := h }, env := { s.env with opens := s.env.opens + 1 } }

/-- `T.write_byte(h, byte)`; the count is latched. -/
def callWriteByte (byte : Byte) (s : State) : State :=
  let r := countAnswer s
  logEvent (.writeByte s.flight.handle byte r.1) { r.2 with flight := { s.flight with cw := r.1 } }

/-- `T.close_write(h, release)`. -/
def callCloseWrite (release : Bool) (s : State) : State :=
  logEvent (.closeWrite s.flight.handle release) s

/-- `T.read(ADDR, count)`; answers the bytes and the status. -/
def callRead (count : Nat) (s : State) : (List Byte × Byte) × State :=
  let r := readAnswer s
  (r.1, logEvent (.read s.arch.addr count r.1.1 r.1.2) r.2)

/-- `T.last_status()`; answers the code. -/
def callLastStatus (s : State) : Byte × State :=
  let r := statusAnswer s
  (r.1, logEvent (.lastStatus r.1) r.2)

/-! ## Reset -/

/-- Every state element takes its reset value, in one step; parameters, transport, history and
responses are not state and stay (10_state R38, 70 R200, R201). -/
def resetAll (s : State) : State := { s with arch := Arch.reset, flight := Flight.reset }

/-- The reset signal (70 R200): acts in any phase, gives no response. -/
def resetSignal (s : State) : State := logEvent .rst (enter .idle (resetAll s))

/-- Construction of an instance for a device (30_encoding R76): a well-formed configuration gives the
reset state, an ill-formed one is refused. -/
def construct (c : Config) : Host.Outcome State Fault Refusal :=
  if c.wf then .next { State.reset with cfg := c } else .refused .illFormedTable

end Sys2Proof.Machine
end

