-- ==== Sys2Proof/Machine/Decoders.lean ====
section
/-! DEFINITION. The Value Decoders (41_decoders R130 to R142): each a pure function of the architectural
state that gives a response record, `Refused` where its preconditions fail; then DECODE, which selects
one by `RESP_KIND`. -/

namespace Sys2Proof.Machine

/-- DEC.BYTE (R132). -/
def decodeByte (a : Arch) : Response :=
  if respHas a 1 then
    { result := .success, vkind := kindByte, uval := (readRaw a.raw 0).setWidth 16 }
  else resultOnly .refused

/-- DEC.WORD (R133). -/
def decodeWord (a : Arch) : Response :=
  if respHas a 2 then { result := .success, vkind := kindWord, uval := rawWord a.raw }
  else resultOnly .refused

/-- The record of a value `m * 2^e` (30_encoding R80), with its exact binary32 (R139). -/
def linearRecord (kind : BitVec 3) (mant : BitVec 17) (exp : BitVec 6) : Response :=
  { result := .success, vkind := kind, mant, exp, f32 := f32OfDyadic mant.toInt exp.toInt }

/-- DEC.LINEAR11 (R134): both fields are sign-extended from their own top bits. -/
def decodeLinear11 (a : Arch) : Response :=
  if respHas a 2 then
    let w := rawWord a.raw
    linearRecord kindLinear11 ((linearMant w).signExtend 17) ((linearExp w).signExtend 6)
  else resultOnly .refused

/-- DEC.VLINEAR (R135): the whole word is an unsigned mantissa, the exponent is `VEXP`; refused while
`EXP_VALID` is 0. -/
def decodeVlinear (a : Arch) : Response :=
  if a.expValid && respHas a 2 then
    linearRecord kindVlinear ((rawWord a.raw).setWidth 17) (a.vexp.signExtend 6)
  else resultOnly .refused

/-- DEC.ASCII (R136): refused while `ASCII_OK` is 0. -/
def decodeAscii (a : Arch) : Response :=
  if a.respValid && a.asciiOk then
    let count := asciiCount a.raw
    { result := .success, vkind := kindAscii, slen := BitVec.ofNat 5 count, out := asciiOut a.raw count }
  else resultOnly .refused

/-- DEC.ENERGY (R137): the three raw fields. -/
def decodeEnergy (a : Arch) : Response :=
  if respHas a energyLen then
    { result := .success, vkind := kindEnergy, eAcc := energyAcc a.raw, eRoll := energyRoll a.raw,
      eSamp := energySamp a.raw }
  else resultOnly .refused

/-- The record of a DECODE, the decoder chosen by `RESP_KIND`; kinds 6 and 7 are refused (R130). -/
def decodeResponse (a : Arch) : Response :=
  if a.respValid then
    if a.respKind = kindByte then decodeByte a
    else if a.respKind = kindWord then decodeWord a
    else if a.respKind = kindLinear11 then decodeLinear11 a
    else if a.respKind = kindVlinear then decodeVlinear a
    else if a.respKind = kindAscii then decodeAscii a
    else if a.respKind = kindEnergy then decodeEnergy a
    else resultOnly .refused
  else resultOnly .refused

/-- DEC.BYTE (R132), fetched in CHECK of a DECODE: its record ends the operation. -/
def execDecByte (s : State) : Host.Outcome State Fault Refusal := .next (finish (decodeByte s.arch) s)

/-- DEC.WORD (R133). -/
def execDecWord (s : State) : Host.Outcome State Fault Refusal := .next (finish (decodeWord s.arch) s)

/-- DEC.LINEAR11 (R134). -/
def execDecLinear11 (s : State) : Host.Outcome State Fault Refusal :=
  .next (finish (decodeLinear11 s.arch) s)

/-- DEC.VLINEAR (R135). -/
def execDecVlinear (s : State) : Host.Outcome State Fault Refusal :=
  .next (finish (decodeVlinear s.arch) s)

/-- DEC.ASCII (R136). -/
def execDecAscii (s : State) : Host.Outcome State Fault Refusal := .next (finish (decodeAscii s.arch) s)

/-- DEC.ENERGY (R137). -/
def execDecEnergy (s : State) : Host.Outcome State Fault Refusal :=
  .next (finish (decodeEnergy s.arch) s)

/-- DECODE (R130): no call, no tally; only `PHASE` moves. -/
def execDecode (s : State) : Host.Outcome State Fault Refusal :=
  .next (finish (decodeResponse s.arch) (start .decode s))

end Sys2Proof.Machine
end

