-- ==== Sys2Proof/Machine/Energy.lean ====
section
/-! DEFINITION. The Energy Accumulator (42_energy R150 to R165). All arithmetic is on mathematical
integers and exact rationals. -/

namespace Sys2Proof.Machine

/-- The normal-case energy count `roll * C + acc` (R152). -/
def energyCount (ceiling roll acc : Nat) : Nat := roll * ceiling + acc

/-- The energy count with the wrap of the overflow-count byte restored: detected by
`roll < E_LAST_ROLL` (R154). -/
def energyCountCorr (ceiling lastRoll roll acc : Nat) : Nat :=
  if roll < lastRoll then energyCount ceiling (roll + rollMod) acc else energyCount ceiling roll acc

/-- The sample difference, the wrap of the 24-bit counter restored (R155). -/
def sampleDiff (lastSamp samp : Nat) : Nat :=
  if samp < lastSamp then samp + sampMod - lastSamp else samp - lastSamp

/-- ENERGY.UPDATE on the architectural state, `C` being `CEILING` (R159). A response shorter than 7
bytes skips the update (R151, R157); an unchanged sample count forms no quotient (R157). -/
def energyUpdate (ceiling : Nat) (a : Arch) : Arch :=
  if a.respLen.toNat < energyLen then { a with avgValid := false }
  else
    let acc := energyAcc a.raw
    let roll := energyRoll a.raw
    let samp := energySamp a.raw
    let lastCount := energyCount ceiling a.eLastRoll.toNat a.eLastAcc.toNat
    let countCorr := energyCountCorr ceiling a.eLastRoll.toNat roll.toNat acc.toNat
    let dE : Int := (countCorr : Int) - lastCount
    let dS := sampleDiff a.eLastSamp.toNat samp.toNat
    { a with
      avgPower := if dS = 0 then a.avgPower else mkRat dE dS
      avgValid := dS != 0
      eCount := BitVec.ofNat 32 countCorr
      eAcc := acc, eRoll := roll, eSamp := samp
      eLastAcc := acc, eLastRoll := roll, eLastSamp := samp }

/-- ENERGY.UPDATE in the state: it makes no call, tallies nothing and answers nothing (R150). -/
def updateEnergy (s : State) : State := { s with arch := energyUpdate s.cfg.ceiling s.arch }

/-- ENERGY.UPDATE (R159): it takes no operand; the other fields of the row that selects it do not
matter. -/
def execEnergyUpdate (s : State) : Host.Outcome State Fault Refusal := .next (updateEnergy s)

end Sys2Proof.Machine
end

