-- ==== Sys2Proof/Machine/Tally.lean ====
section
/-! DEFINITION. The Transaction Tally (40_transaction R116 to R128): the shared operation, then one
meaning per ST8 row. -/

namespace Sys2Proof.Machine

/-- The category counter of a tally (R117 to R126); a success has none. -/
def bumpCategory (k : Category) (c : Counters) : Counters :=
  match k with
  | .success => c
  | .oversize => { c with oversize := satinc c.oversize }
  | .addrNack => { c with addrNack := satinc c.addrNack }
  | .dataNack => { c with dataNack := satinc c.dataNack }
  | .timeout => { c with timeout := satinc c.timeout }
  | .arbLost => { c with arbLost := satinc c.arbLost }
  | .bufOvf => { c with bufOvf := satinc c.bufOvf }
  | .wrIncomplete => { c with wrIncomplete := satinc c.wrIncomplete }
  | .misuse => { c with misuse := satinc c.misuse }
  | .unknown => { c with unknown := satinc c.unknown }

/-- The total of a tally: `CNT_TOTAL_OK` for a success, else `CNT_TOTAL_ERR` (R127). -/
def bumpTotal (k : Category) (c : Counters) : Counters :=
  if k = .success then { c with totalOk := satinc c.totalOk }
  else { c with totalErr := satinc c.totalErr }

/-- The tally of `code` by the rule of category `k`: `LAST_STATUS`, the counters and `EXISTS` in one
step (R116, R128). -/
def tallyAs (k : Category) (code : Byte) (s : State) : State :=
  { s with arch := { s.arch with
      lastStatus := code
      cnt := bumpTotal k (bumpCategory k s.arch.cnt)
      existsFlag := s.arch.existsFlag && !clearsExists k } }

/-- `Tally(code)`, by the configured `STATUS_MAP` (R116). -/
def tally (code : Byte) (s : State) : State := tallyAs (statusMap s.cfg.statusMap code) code s

/-- TALLY.SUCCESS (R117). -/
def execTallySuccess (s : State) : Host.Outcome State Fault Refusal :=
  .next (tallyAs .success stSuccess s)

/-- TALLY.OVERSIZE (R118). -/
def execTallyOversize (s : State) : Host.Outcome State Fault Refusal :=
  .next (tallyAs .oversize stOversize s)

/-- TALLY.ADDR_NACK (R119). -/
def execTallyAddrNack (s : State) : Host.Outcome State Fault Refusal :=
  .next (tallyAs .addrNack stAddrNack s)

/-- TALLY.DATA_NACK (R120). -/
def execTallyDataNack (s : State) : Host.Outcome State Fault Refusal :=
  .next (tallyAs .dataNack stDataNack s)

/-- TALLY.TIMEOUT (R121). -/
def execTallyTimeout (s : State) : Host.Outcome State Fault Refusal :=
  .next (tallyAs .timeout stTimeout s)

/-- TALLY.ARB_LOST (R122). -/
def execTallyArbLost (s : State) : Host.Outcome State Fault Refusal :=
  .next (tallyAs .arbLost stArbLost s)

/-- TALLY.BUF_OVF (R123). -/
def execTallyBufOvf (s : State) : Host.Outcome State Fault Refusal :=
  .next (tallyAs .bufOvf stBufOvf s)

/-- TALLY.WR_INCOMPLETE (R124). -/
def execTallyWrIncomplete (s : State) : Host.Outcome State Fault Refusal :=
  .next (tallyAs .wrIncomplete stWrIncomplete s)

/-- TALLY.MISUSE (R125). -/
def execTallyMisuse (s : State) : Host.Outcome State Fault Refusal :=
  .next (tallyAs .misuse stMisuse s)

/-! TALLY.UNKNOWN (R126), one meaning per row of the table. -/

/-- Code 0x09. -/
def execTallyUnknown09 (s : State) : Host.Outcome State Fault Refusal :=
  .next (tallyAs .unknown 0x09#8 s)

/-- Codes 0x0A and 0x0B. -/
def execTallyUnknown0A (low : BitVec 1) (s : State) : Host.Outcome State Fault Refusal :=
  .next (tallyAs .unknown (0b0000101#7 ++ low) s)

/-- Codes 0x0C to 0x0F. -/
def execTallyUnknown0C (low : BitVec 2) (s : State) : Host.Outcome State Fault Refusal :=
  .next (tallyAs .unknown (0b000011#6 ++ low) s)

/-- Codes 0x10 to 0x1F. -/
def execTallyUnknown10 (low : BitVec 4) (s : State) : Host.Outcome State Fault Refusal :=
  .next (tallyAs .unknown (0b0001#4 ++ low) s)

/-- Codes 0x20 to 0x3F. -/
def execTallyUnknown20 (low : BitVec 5) (s : State) : Host.Outcome State Fault Refusal :=
  .next (tallyAs .unknown (0b001#3 ++ low) s)

/-- Codes 0x40 to 0x7F. -/
def execTallyUnknown40 (low : BitVec 6) (s : State) : Host.Outcome State Fault Refusal :=
  .next (tallyAs .unknown (0b01#2 ++ low) s)

/-- Codes 0x80 to 0xFF. -/
def execTallyUnknown80 (low : BitVec 7) (s : State) : Host.Outcome State Fault Refusal :=
  .next (tallyAs .unknown (0b1#1 ++ low) s)

end Sys2Proof.Machine
end

