-- ==== Sys2Proof/Machine/Transaction.lean ====
section
/-! DEFINITION. The Command Transaction Engine (40_transaction R100 to R115) and the phases it shares
with PROBE and FETCHEXP (43_management R172, R173). `at<Phase>` is what the sequencer does standing in
that phase and in the ones after it: an operation runs to its end in one step (20_memory R61), or to a
call that has not returned (`stalled`), where `PHASE` stays (20_memory R69; log 1, log 4). Written from
the last phase to the first, since an operation moves forward only (10_state R34). -/

namespace Sys2Proof.Machine

/-- The exponent of a successful FETCHEXP (R173): `VEXP` from the byte just stored; on a failure
`EXP_VALID` is cleared. -/
def latchExponent (s : State) : State :=
  if s.flight.result = .success then
    { s with arch := { s.arch with vexp := modeExp (readRaw s.arch.raw 0), expValid := true } }
  else { s with arch := { s.arch with expValid := false } }

/-- A probe's last step (R172): success sets `EXISTS`. -/
def latchProbe (s : State) : State :=
  if s.flight.code = stSuccess then { s with arch := { s.arch with existsFlag := true } } else s

/-- The end of a transaction, by operation: CMD answers its result (R114), FETCHEXP latches the
exponent (R173), PROBE decides by its code and the tallied `EXISTS` (R172). -/
def conclude (s : State) : State :=
  match s.flight.op with
  | .cmd => finish (resultOnly s.flight.result) s
  | .fetchexp => finish (resultOnly s.flight.result) (latchExponent s)
  | .probe => finish (resultOnly (probeResult s.flight.code s.arch.existsFlag)) (latchProbe s)
  | .decode => finish (resultOnly s.flight.result) s

/-- A successful transaction on a row of kind ENERGY runs the accumulator (R113). -/
def energyDue (s : State) : Bool :=
  s.flight.op != .probe && s.flight.result == .success && (curRow s).kind == kindEnergy

/-- `ACCUM`: ENERGY.UPDATE, then the end (R113). -/
def atAccum (s : State) : State := conclude (updateEnergy s)

/-- After the tally: the accumulator if it is due, else the end. -/
def afterTally (s : State) : State :=
  if energyDue s then atAccum (enter .accum s) else conclude s

/-- `TALLY` of the latched code (R116). -/
def atTally (s : State) : State := afterTally (tally s.flight.code s)

/-- On to `TALLY` with a code and the transaction's result. -/
def toTally (code : Byte) (result : Result) (s : State) : State :=
  atTally (enter .tally { s with flight := { s.flight with code := code, result := result } })

/-- The store of a successful read phase (R110, R111): the bytes, the five tags and, for an ASCII row
whose count fits, the terminator. -/
def storeResponse (row : CommandSpec) (idx : BitVec 8) (bytes : List Byte) (a : Arch) : Arch :=
  let raw := storeBytes a.raw 0 bytes
  let ok := row.kind == kindAscii && asciiFits (asciiCount raw) bytes.length
  { a with
    raw := if ok then writeRaw raw (asciiCount raw + 1) 0 else raw
    respValid := true
    respLen := BitVec.ofNat 5 bytes.length
    respKind := row.kind
    respIdx := idx
    asciiOk := ok }

/-- `STORE` of the latched bytes, then the success tally (R110 to R112). -/
def atStore (s : State) : State :=
  toTally stSuccess .success
    { s with arch := storeResponse (curRow s) s.arch.curIdx s.flight.bytes s.arch }

/-- `RD_STATUS`: the transport's detailed code. A failed read tallies it with `ST_SUCCESS` replaced
(R109); a probe tallies it as it is (R172). -/
def atRdStatus (s : State) : State :=
  if stalled s then unstall s
  else
    let r := callLastStatus s
    toTally (if s.flight.op = .probe then r.1 else failureCode r.1) .failure r.2

/-- `RD`: exactly the declared length is asked for (R107); the criterion is R108. -/
def atRd (s : State) : State :=
  if stalled s then unstall s
  else
    let r := callRead (curRow s).len.toNat s
    if readOk r.1.1 r.1.2 then
      atStore (enter .store { r.2 with flight := { r.2.flight with bytes := r.1.1 } })
    else atRdStatus (enter .rdStatus r.2)

/-- `WR_CLOSE`: a probe releases the bus and asks for the status (R172); an incomplete write releases it
and fails (R105); else the bus is held for the repeated start (R106). -/
def atWrClose (s : State) : State :=
  if stalled s then unstall s
  else if s.flight.op = .probe then atRdStatus (enter .rdStatus (callCloseWrite true s))
  else if s.flight.cw ≠ 1 then toTally stWrIncomplete .failure (callCloseWrite true s)
  else atRd (enter .rd (callCloseWrite false s))

/-- `WR_BYTE`: the single command byte (R104). -/
def atWrByte (s : State) : State :=
  if stalled s then unstall s else atWrClose (enter .wrClose (callWriteByte (curRow s).cmd s))

/-- `WR_OPEN` (R104); a probe writes no byte (R172). -/
def atWrOpen (s : State) : State :=
  if stalled s then unstall s
  else if s.flight.op = .probe then atWrClose (enter .wrClose (callOpenWrite s))
  else atWrByte (enter .wrByte (callOpenWrite s))

/-- `SETTLE` (R103). -/
def atSettle (s : State) : State :=
  if stalled s then unstall s else atWrOpen (enter .wrOpen (callSettle s))

/-- `Transact(CUR_IDX)` (R100). -/
def transact (s : State) : State := atSettle (enter .settle s)

/-- `CHECK` of a CMD: the index (R101), then existence (R102). -/
def checkCmd (s : State) : State :=
  if s.cfg.nCmds ≤ s.arch.curIdx.toNat then refuse s
  else if s.arch.existsFlag then transact s
  else finish (resultOnly .absent) s

/-- CMD i (R100). A refused index leaves `CUR_IDX` as it was: a refused request changes no state element but
`PHASE` (00_scope R14, 43_management R175, 92 D3 and D30; R100 and 60_exceptions R181 row 2 would keep the
index in it: DESIGN CHOICE, log 25). -/
def execCmd (i : BitVec 8) (s : State) : Host.Outcome State Fault Refusal :=
  .next
    (if s.cfg.nCmds ≤ i.toNat then refuse (start .cmd s)
    else checkCmd (start .cmd { s with arch := { s.arch with curIdx := i } }))

end Sys2Proof.Machine
end

