-- ==== Sys2Proof/Machine/Management.lean ====
section
/-! DEFINITION. The management operations RESET, SETADDR, PROBE and FETCHEXP (43_management R170 to
R175). -/

namespace Sys2Proof.Machine

/-- RESET (R170): every state element takes its reset value. -/
def execReset (s : State) : Host.Outcome State Fault Refusal :=
  .next (finish (resultOnly .success) (resetAll (enter .check s)))

/-- The state effect of SETADDR (R171). -/
def retarget (addr : BusAddr) (a : Arch) : Arch :=
  { a with addr, existsFlag := false, expValid := false, respValid := false, asciiOk := false }

/-- SETADDR a (R171). -/
def execSetaddr (addr : BusAddr) (s : State) : Host.Outcome State Fault Refusal :=
  let t := enter .check s
  .next (finish (resultOnly .success) { t with arch := retarget addr t.arch })

/-- PROBE (R172): it does not test `EXISTS`. That it passes `CHECK` before `SETTLE`, having nothing to check, is
the model's (DESIGN CHOICE, log 21). -/
def execProbe (s : State) : Host.Outcome State Fault Refusal := .next (transact (start .probe s))

/-- `CHECK` of a FETCHEXP on row `i`, `EXISTS` first (R173). -/
def checkFetchexp (s : State) : State :=
  if s.arch.existsFlag then transact s
  else finish (resultOnly .absent) { s with arch := { s.arch with expValid := false } }

/-- FETCHEXP up to its `CHECK` (R173): refused without a mode command; an `IDX_VMODE` outside the table
addresses nothing and is refused too (20_memory R51; no well-formed configuration has one; log 17). -/
def beginFetchexp (s : State) : State :=
  match s.cfg.idxVmode with
  | none => refuse s
  | some i =>
    if s.cfg.nCmds ≤ i.toNat then refuse s
    else checkFetchexp { s with arch := { s.arch with curIdx := i } }

/-- FETCHEXP (R173). -/
def execFetchexp (s : State) : Host.Outcome State Fault Refusal :=
  .next (beginFetchexp (start .fetchexp s))

/-- An illegal request word (R175): `Refused`, only `PHASE` moves. -/
def refuseRequest (s : State) : State := refuse (enter .check s)

end Sys2Proof.Machine
end

