-- ==== Sys2Proof/Machine/Dispatch.lean ====
section
/-! DEFINITION. The dispatch of the instructions: one arm per row of spec/opcode_table.json. -/

namespace Sys2Proof.Machine

def exec (i : Instr) (s : State) : Host.Outcome State Fault Refusal :=
  match i with
  | .setaddr a => Sys2Proof.Machine.execSetaddr a s
  | .probe => Sys2Proof.Machine.execProbe s
  | .cmd idx => Sys2Proof.Machine.execCmd idx s
  | .fetchexp => Sys2Proof.Machine.execFetchexp s
  | .decode => Sys2Proof.Machine.execDecode s
  | .reset => Sys2Proof.Machine.execReset s
  | .decByte => Sys2Proof.Machine.execDecByte s
  | .decWord => Sys2Proof.Machine.execDecWord s
  | .decLinear11 => Sys2Proof.Machine.execDecLinear11 s
  | .decVlinear => Sys2Proof.Machine.execDecVlinear s
  | .decAscii => Sys2Proof.Machine.execDecAscii s
  | .decEnergy => Sys2Proof.Machine.execDecEnergy s
  | .energyUpdate _ _ => Sys2Proof.Machine.execEnergyUpdate s
  | .tallySuccess => Sys2Proof.Machine.execTallySuccess s
  | .tallyOversize => Sys2Proof.Machine.execTallyOversize s
  | .tallyAddrNack => Sys2Proof.Machine.execTallyAddrNack s
  | .tallyDataNack => Sys2Proof.Machine.execTallyDataNack s
  | .tallyTimeout => Sys2Proof.Machine.execTallyTimeout s
  | .tallyArbLost => Sys2Proof.Machine.execTallyArbLost s
  | .tallyBufOvf => Sys2Proof.Machine.execTallyBufOvf s
  | .tallyWrIncomplete => Sys2Proof.Machine.execTallyWrIncomplete s
  | .tallyMisuse => Sys2Proof.Machine.execTallyMisuse s
  | .tallyUnknown09 => Sys2Proof.Machine.execTallyUnknown09 s
  | .tallyUnknown0A low => Sys2Proof.Machine.execTallyUnknown0A low s
  | .tallyUnknown0C low => Sys2Proof.Machine.execTallyUnknown0C low s
  | .tallyUnknown10 low => Sys2Proof.Machine.execTallyUnknown10 low s
  | .tallyUnknown20 low => Sys2Proof.Machine.execTallyUnknown20 low s
  | .tallyUnknown40 low => Sys2Proof.Machine.execTallyUnknown40 low s
  | .tallyUnknown80 low => Sys2Proof.Machine.execTallyUnknown80 low s

end Sys2Proof.Machine
end

