-- ==== Sys2Proof/Machine/Fetch.lean ====
section
/-! DEFINITION. What the sequencer reads as its next instruction word, by phase (log 10): in IDLE a
request word of the host; in CHECK of a DECODE the stored kind (41_decoders R130); in TALLY the status
code (40_transaction R116), where the configured STATUS_MAP follows the table of ST8 rows; in ACCUM the
packed table row (R113). In the other phases it carries on with the operation in progress. And when the
reset signal acts (70 R200). -/

namespace Sys2Proof.Machine

/-- What stands before the sequencer. -/
inductive Fetched where
  /-- IDLE with nothing offered: the block does nothing (70 R200). -/
  | nothing
  /-- An operation in progress, at a phase that reads no instruction word. -/
  | carryOn
  /-- An instruction word. -/
  | word (w : FetchWord)
deriving DecidableEq, Repr

/-- The next instruction word (log 10). A reset signal is not looked at here: `step` gives it precedence.
A code whose category another STATUS_MAP changes has no ST8 row: its tally carries on by the map
(log 12). -/
def fetch (s : State) : Fetched :=
  match s.arch.phase with
  | .idle =>
    match s.env.inbox with
    | .request w :: _ => .word (.req16 w)
    | .rst :: _ => .nothing
    | [] => .nothing
  | .check => if s.flight.op = .decode then .word (.kind3 s.arch.respKind) else .carryOn
  | .tally =>
    if followsTable s.cfg.statusMap s.flight.code then .word (.st8 s.flight.code) else .carryOn
  | .accum => .word (.ct16 (curRow s).pack)
  | .settle | .wrOpen | .wrByte | .wrClose | .rd | .rdStatus | .store | .done => .carryOn

/-- The input at the head of the inbox is taken. -/
def takeInput (s : State) : State :=
  { s with env := { s.env with inbox := s.env.inbox.tail } }

/-- The reset signal acts now (70 R200): whenever one is offered while an operation is in progress, past the
requests that wait there (93 U15); in IDLE in its turn, before every request offered after it (log 5). -/
def resetDue (s : State) : Bool :=
  if s.arch.phase = .idle then s.env.inbox.head? == some .rst else s.env.inbox.contains .rst

/-- The oldest reset signal offered is taken; the requests stay. -/
def takeReset (s : State) : State :=
  { s with env := { s.env with inbox := s.env.inbox.erase .rst } }

/-- The fetched word is taken: a request leaves the inbox, a selector stays where it is. -/
def accept (s : State) : State := if s.arch.phase = .idle then takeInput s else s

/-- What the sequencer does after the fetched instruction, by the phase it was fetched in: after a tally
and after the accumulator the operation goes on to its end; a request and a decoder have ended
theirs. -/
def continueFrom (p : Phase) (s : State) : State :=
  match p with
  | .tally => afterTally s
  | .accum => conclude s
  | .idle | .check | .settle | .wrOpen | .wrByte | .wrClose | .rd | .rdStatus | .store | .done => s

/-- A fetched word that is no instruction, by the phase it was fetched in: an illegal request (R175), a
reserved kind (R130 BadKind), a row that is not ENERGY (no update is due). -/
def reject (p : Phase) (s : State) : State :=
  match p with
  | .idle => refuseRequest s
  | .accum => conclude s
  | .check | .tally | .settle | .wrOpen | .wrByte | .wrClose | .rd | .rdStatus | .store | .done =>
    refuse s

/-- An operation in progress goes on from its phase (20_memory R69). -/
def resume (s : State) : State :=
  match s.arch.phase with
  | .idle => s
  | .check =>
    match s.flight.op with
    | .cmd => checkCmd s
    | .fetchexp => beginFetchexp s
    | .probe => transact s
    | .decode => finish (decodeResponse s.arch) s
  | .settle => atSettle s
  | .wrOpen => atWrOpen s
  | .wrByte => atWrByte s
  | .wrClose => atWrClose s
  | .rd => atRd s
  | .rdStatus => atRdStatus s
  | .store => atStore s
  | .tally => atTally s
  | .accum => atAccum s
  | .done => enter .idle s

/-- `s` with the instruction word `w` standing where the sequencer reads its next one: a request is
offered first in IDLE; a selector is put in its register and the phase set to the one that reads it. A
reset signal that waits is taken back, since it would act first; for a status code `STATUS_MAP` is the
table of R77, which the ST8 rows number. -/
def placeWord (s : State) (w : FetchWord) : State :=
  let waiting := s.env.inbox.filter fun x => x != .rst
  match w with
  | .req16 word =>
    { s with arch := { s.arch with phase := .idle },
             env := { s.env with inbox := .request word :: s.env.inbox } }
  | .kind3 k =>
    { s with arch := { s.arch with phase := .check, respKind := k },
             flight := { s.flight with op := .decode }, env := { s.env with inbox := waiting } }
  | .ct16 row =>
    { s with arch := { s.arch with phase := .accum, curIdx := 0 },
             cfg := { s.cfg with table := CommandSpec.unpack row :: s.cfg.table.tail },
             env := { s.env with inbox := waiting } }
  | .st8 code =>
    { s with arch := { s.arch with phase := .tally }, flight := { s.flight with code := code },
             cfg := { s.cfg with statusMap := StatusMap.standard },
             env := { s.env with inbox := waiting } }

end Sys2Proof.Machine
end

