-- ==== Sys2Proof/Machine/Step.lean ====
section
/-! DEFINITION. One step of the machine: the reset signal first (70 R200), else the instruction that
stands before the sequencer, run by `exec`, else the operation in progress. -/

namespace Sys2Proof.Machine

/-- Run a decoded instruction and let the sequencer go on from the phase it was fetched in. -/
def runInstr (i : Instr) (s : State) : Host.Outcome State Fault Refusal :=
  match exec i (accept s) with
  | .next t => .next (continueFrom s.arch.phase t)
  | .fault r => .fault r
  | .refused r => .refused r

/-- A step on what was fetched. -/
def runFetched (s : State) : Host.Outcome State Fault Refusal :=
  match fetch s with
  | .nothing => .next s
  | .carryOn => .next (resume s)
  | .word w =>
    match decode w with
    | .ok i => runInstr i s
    | .error _ => .next (reject s.arch.phase (accept s))

/-- One step. A request offered while an operation is in progress waits in the inbox (10_state R34); the
reset signal does not wait for it (70 R200). -/
def step (s : State) : Host.Outcome State Fault Refusal :=
  if resetDue s then .next (resetSignal (takeReset s)) else runFetched s

/-- `s` with the instruction whose bits are `w` stored where `step` fetches its next instruction (log 10,
log 11). -/
def State.withFetchWord (s : State) (nbits w : Nat) : State := placeWord s (tableWord nbits w)

end Sys2Proof.Machine
end

