-- ==== Sys2Proof/Machine/Pseudo.lean ====
section
/-! DEFINITION. The pseudo-operations READ and INIT, as the host would run them (30_encoding R90): "the
conditions are the host's: LCMSEQ itself never chains requests". No step of the machine runs them. -/

namespace Sys2Proof.Machine

/-- `READ i`: `CMD i`, then DECODE only if the result was `Success` (R90, 41_decoders R141). Where the CMD
waits at a transport call that has not returned, to which 20_memory R69 gives no rule, the host waits with
it: the answer is the waiting state, and the DECODE is not offered (DESIGN CHOICE, log 24). -/
def hostRead (i : BitVec 8) (s : State) : Host.Outcome State Fault Refusal :=
  match execCmd i s with
  | .next t => if t.env.responses = s.env.responses ++ [resultOnly .success] then execDecode t else .next t
  | .fault r => .fault r
  | .refused r => .refused r

/-- `INIT a` from the state after its RESET and SETADDR: PROBE, then FETCHEXP only if the probe answered
`Success` and there is a mode command. Where the PROBE waits, the answer is the waiting state (DESIGN CHOICE,
log 24). -/
def hostProbeInit (s : State) : Host.Outcome State Fault Refusal :=
  match execProbe s with
  | .next t =>
    if t.env.responses = s.env.responses ++ [resultOnly .success] ∧ t.cfg.idxVmode.isSome then
      execFetchexp t
    else .next t
  | .fault r => .fault r
  | .refused r => .refused r

/-- `INIT a`: RESET, SETADDR a, PROBE, FETCHEXP (R90, R174). -/
def hostInit (addr : BusAddr) (s : State) : Host.Outcome State Fault Refusal :=
  match execReset s with
  | .next t =>
    match execSetaddr addr t with
    | .next u => hostProbeInit u
    | .fault r => .fault r
    | .refused r => .refused r
  | .fault r => .fault r
  | .refused r => .refused r

end Sys2Proof.Machine
end

