-- ==== Sys2Proof/Safety.lean ====
section
/-! DEFINITION. What the claims are stated in: the premise that the transport answers, the order of
phases, the protocol of transport calls, and the invariants every step keeps. -/

namespace Sys2Proof.Machine

/-! ## The premise of completion -/

/-- A call that has not returned, no answer (log 4). -/
def Answer.isStall : Answer → Bool
  | .stall _ => true
  | .cw _ | .rd _ _ | .ls _ => false

/-- Every transport call returns (20_memory R69, decision D40): no scripted answer is a stall. Claims
that an operation completes name it as a premise. -/
abbrev Responsive (s : State) : Prop := ∀ a ∈ s.env.script, a.isStall = false

/-- How many waiting steps the script holds (log 4). -/
def stallsToCome (s : State) : Nat := s.env.script.countP Answer.isStall

/-! ## Phases -/

/-- The place of a phase in the order of 10_state R34. -/
def Phase.rank : Phase → Nat
  | .idle => 0
  | .check => 1
  | .settle => 2
  | .wrOpen => 3
  | .wrByte => 4
  | .wrClose => 5
  | .rd => 6
  | .rdStatus => 7
  | .store => 8
  | .tally => 9
  | .accum => 10
  | .done => 11

/-- The rest of a finished operation's path: forward only, through DONE, back to IDLE (10_state R34). -/
def forwardPath : List Phase → Bool
  | [.done, .idle] => true
  | p :: q :: rest => p.rank < q.rank && forwardPath (q :: rest)
  | _ => false

/-- The path of one finished operation: it leaves from CHECK and goes forward only (R34, 60_exceptions
R187). -/
def operationPath (path : List Phase) : Bool := path.head? == some .check && forwardPath path

/-- The phases a state rests in between steps: IDLE, or one of the six in which a call can be waited
for (log 4). -/
def restsIn : Phase → Bool
  | .idle | .settle | .wrOpen | .wrByte | .wrClose | .rd | .rdStatus => true
  | .check | .store | .tally | .accum | .done => false

/-! ## The protocol of transport calls (20_memory R64, 43_management R172) -/

/-- Where a call history stands. -/
inductive BusState where
  /-- No transaction in progress. -/
  | quiet
  /-- The settle delay has been waited. -/
  | settled
  /-- A write phase is open, no byte written. -/
  | opened (h : Handle)
  /-- The command byte was offered and `cw` accepted. -/
  | written (h : Handle) (cw : Nat)
  /-- The write phase is closed, the bus held for the repeated start. -/
  | held
  /-- A read phase failed, or a probe was closed: the detailed code is to be asked for. -/
  | asking
deriving DecidableEq, Repr

/-- The one call allowed in each place (R64, R172); `none` is a breach. The reset signal ends any
transaction (70 R200). -/
def busNext (e : Event) (b : BusState) : Option BusState :=
  match e, b with
  | .rst, _ => some .quiet
  | .settle _, .quiet => some .settled
  | .openWrite _ h, .settled => some (.opened h)
  | .writeByte h _ cw, .opened h' => if h = h' then some (.written h cw) else none
  | .closeWrite h true, .opened h' => if h = h' then some .asking else none
  | .closeWrite h release, .written h' cw =>
    if h = h' ∧ release = (cw != 1) then some (if release then .quiet else .held) else none
  | .read _ _ bytes rstatus, .held => some (if readOk bytes rstatus then .quiet else .asking)
  | .lastStatus _, .asking => some .quiet
  | _, _ => none

/-- Run the protocol over a history. -/
def busRun (b : BusState) : List Event → Option BusState
  | [] => some b
  | e :: es =>
    match busNext e b with
    | some b' => busRun b' es
    | none => none

/-- Where the call history of a resting state has to stand, by its phase. -/
def busExpected (s : State) : BusState :=
  match s.arch.phase with
  | .wrOpen => .settled
  | .wrByte => .opened s.flight.handle
  | .wrClose => if s.flight.op = .probe then .opened s.flight.handle else .written s.flight.handle s.flight.cw
  | .rd => .held
  | .rdStatus => .asking
  | .idle | .check | .settle | .store | .tally | .accum | .done => .quiet

/-! ## Frames -/

/-- The state after an operation that only answers: `PHASE` back in IDLE, one more record and the path it
took; everything else as in `s`. -/
def answered (r : Response) (path : List Phase) (s : State) : State :=
  { s with
    arch := { s.arch with phase := .idle }
    env := { s.env with responses := s.env.responses ++ [r], phases := s.env.phases ++ path } }

/-- Nothing of the data state changed (60_exceptions R188): RAW, the tags, `VEXP`, the energy file and
`ADDR`. -/
def SameData (s t : State) : Prop :=
  t.arch = { s.arch with
    existsFlag := t.arch.existsFlag
    lastStatus := t.arch.lastStatus
    cnt := t.arch.cnt
    expValid := t.arch.expValid
    phase := t.arch.phase
    curIdx := t.arch.curIdx }

/-- The energy file did not change (10_state R30 to R33). -/
def SameEnergyFile (s t : State) : Prop :=
  t.arch.eAcc = s.arch.eAcc ∧ t.arch.eRoll = s.arch.eRoll ∧ t.arch.eSamp = s.arch.eSamp
    ∧ t.arch.eLastAcc = s.arch.eLastAcc ∧ t.arch.eLastRoll = s.arch.eLastRoll
    ∧ t.arch.eLastSamp = s.arch.eLastSamp ∧ t.arch.eCount = s.arch.eCount
    ∧ t.arch.avgPower = s.arch.avgPower ∧ t.arch.avgValid = s.arch.avgValid

/-- Between steps an operation waits at a call, and no reset signal acts (log 4, log 5): the next step
resumes it. -/
abbrev Waiting (s : State) : Prop :=
  restsIn s.arch.phase = true ∧ s.arch.phase ≠ .idle ∧ resetDue s = false

/-- The calls of one transaction that wrote its command byte and read (20_memory R64): `tail` is what
follows the read. -/
def transactionCalls (s : State) (row : CommandSpec) (bytes : List Byte) (rstatus : Byte)
    (tail : List Event) : List Event :=
  [.settle s.cfg.tSettle, .openWrite s.arch.addr { opening := s.env.opens },
   .writeByte { opening := s.env.opens } row.cmd 1, .closeWrite { opening := s.env.opens } false,
   .read s.arch.addr row.len.toNat bytes rstatus] ++ tail

/-! ## Invariants -/

/-- The history obeys the protocol and stands where the phase says (20_memory R64, 70 R205); a probe never
stands where a byte is written or read (43_management R172). -/
def CallOrder (s : State) : Prop :=
  restsIn s.arch.phase = true
    ∧ (s.arch.phase = .wrByte ∨ s.arch.phase = .rd → s.flight.op ≠ .probe)
    ∧ busRun .quiet s.env.history = some (busExpected s)

/-- What the tags promise of RAW (10_state R27, 40_transaction R108, R111): a length of at most 17, at
least 1 when valid; a kind that is not reserved if the table is well-formed; and, while `ASCII_OK` is 1,
an ASCII response whose count fits and whose terminator stands after the payload. -/
def TagsSound (s : State) : Prop :=
  restsIn s.arch.phase = true
    ∧ s.arch.respLen.toNat ≤ maxLen
    ∧ (s.arch.respValid = true → 1 ≤ s.arch.respLen.toNat)
    ∧ (s.cfg.wf = true → s.arch.respKind.toNat ≤ 5)
    ∧ (s.arch.asciiOk = true →
        s.arch.respValid = true ∧ s.arch.respKind = kindAscii
          ∧ asciiFits (asciiCount s.arch.raw) s.arch.respLen.toNat = true
          ∧ readRaw s.arch.raw (asciiCount s.arch.raw + 1) = 0)

/-- The largest value of a counter. -/
abbrev counterMax : Nat := 2 ^ 32 - 1

/-- The nine category counters of 10_state R24. -/
def Counters.categories (c : Counters) : List Counter :=
  [c.wrIncomplete, c.oversize, c.timeout, c.addrNack, c.dataNack, c.arbLost, c.bufOvf, c.unknown,
   c.misuse]

/-- The sum of the nine category counters. -/
def Counters.categorySum (c : Counters) : Nat := (c.categories.map BitVec.toNat).sum

/-- No category counter and not `CNT_TOTAL_ERR` stands at its maximum. -/
def Counters.unsaturated (c : Counters) : Prop :=
  (∀ k ∈ c.categories, k.toNat < counterMax) ∧ c.totalErr.toNat < counterMax

/-- "While no counter has saturated, `CNT_TOTAL_ERR` equals the sum of the nine category counters"
(10_state R25). -/
def CountersAgree (s : State) : Prop :=
  s.arch.cnt.unsaturated → s.arch.cnt.totalErr.toNat = s.arch.cnt.categorySum

/-- Between operations the last copies equal the current fields (42_energy R158). -/
def EnergyCopiesAgree (s : State) : Prop :=
  s.arch.eLastAcc = s.arch.eAcc ∧ s.arch.eLastRoll = s.arch.eRoll ∧ s.arch.eLastSamp = s.arch.eSamp

end Sys2Proof.Machine
end

