-- ==== Sys2Proof/Certificates/Slice0/Obligations.lean ====
section
/-! DEFINITION. The statements for the provers. Each says, for every state, what a rule of spec/ says an
instruction or the machine does, with its frame; a statement that gives `exec i s` as `.next t` is that
instruction's completion statement too. -/

open Sys2Proof Sys2Proof.Machine

/-! ## Encoding -/

/-- Decode and encode agree, in both directions, over all instructions and all words of the four formats
(30_encoding R70 to R77): a word is an instruction exactly when it is that instruction's encoding. -/
def Obligations.DecodeAgreesWithEncode : Prop :=
  ∀ (w : FetchWord) (i : Instr), decode w = .ok i ↔ w = encode i

/-- Words written out from the spec's encodings decode to their instructions: V1, V5, V8, V12, V13, V15 of
95, the kinds of 30_encoding R75, a row of TEST_TABLE, and status codes of R77. -/
def Obligations.SpecWordsDecode : Prop :=
  decode (.req16 0x1058) = .ok (.setaddr 0x58) ∧ decode (.req16 0x2000) = .ok .probe
    ∧ decode (.req16 0x3006) = .ok (.cmd 6) ∧ decode (.req16 0x4000) = .ok .fetchexp
    ∧ decode (.req16 0x5000) = .ok .decode ∧ decode (.req16 0xF000) = .ok .reset
    ∧ decode (.kind3 0) = .ok .decByte ∧ decode (.kind3 4) = .ok .decAscii
    ∧ decode (.ct16 0xA786) = .ok (.energyUpdate 7 0x86)
    ∧ decode (.st8 0x00) = .ok .tallySuccess ∧ decode (.st8 0x05) = .ok .tallyArbLost
    ∧ decode (.st8 0x80) = .ok (.tallyUnknown80 0)

/-- The illegal request words are exactly those of 30_encoding R73, by the fields of R70. -/
def Obligations.IllegalRequestWords : Prop :=
  ∀ w : Word,
    (∀ i, decode (.req16 w) ≠ .ok i) ↔
      (let op := w.toNat / 4096
       let z := w.toNat / 256 % 16
       let arg := w.toNat % 256
       op = 0 ∨ (6 ≤ op ∧ op ≤ 14) ∨ z ≠ 0 ∨ (op = 1 ∧ 128 ≤ arg)
         ∨ ((op = 2 ∨ op = 4 ∨ op = 5 ∨ op = 15) ∧ arg ≠ 0))

/-- STATUS_MAP is closed and total (30_encoding R78): under the default map the tally of every status code is
the one rule its ST8 row names; under any configured map it is the ST8 rule of the category the map gives
the code, with the code itself in LAST_STATUS (40_transaction R116). -/
def Obligations.EveryStatusCodeHasOneTallyRule : Prop :=
  (∀ (code : Byte) (s : State), s.cfg.statusMap = StatusMap.standard →
    exec (decodeSt8 code) s = .next (tally code s))
  ∧ ∀ (code : Byte) (s : State), ∃ (row : Byte) (u : State),
      statusMap StatusMap.standard row = statusMap s.cfg.statusMap code
      ∧ exec (decodeSt8 row) s = .next u
      ∧ tally code s = { u with arch := { u.arch with lastStatus := code } }

/-- A command table or parameter that 30_encoding R76 or 00_scope R7 forbids is refused at construction; one
that meets every clause of the two, whatever its STATUS_MAP, gives the reset state with that
configuration. -/
def Obligations.ConstructionRefusesIllFormedTables : Prop :=
  (∀ (c : Config) (r : CommandSpec), r ∈ c.table →
      (6 ≤ r.kind.toNat ∨ r.len.toNat = 0 ∨ 17 < r.len.toNat
        ∨ (r.kind.toNat = 0 ∧ r.len.toNat ≠ 1)
        ∨ (1 ≤ r.kind.toNat ∧ r.kind.toNat ≤ 3 ∧ r.len.toNat ≠ 2)
        ∨ (r.kind.toNat = 4 ∧ r.len.toNat < 3)
        ∨ (r.kind.toNat = 5 ∧ r.len.toNat ≠ 7)) →
      construct c = .refused .illFormedTable)
  ∧ (∀ (c : Config) (r : CommandSpec), r ∈ c.table → r.kind.toNat = 3 → c.idxVmode = none →
      construct c = .refused .illFormedTable)
  ∧ (∀ (c : Config) (i : BitVec 8) (r : CommandSpec), c.idxVmode = some i →
      c.table[i.toNat]? = some r → r.kind.toNat ≠ 0 → construct c = .refused .illFormedTable)
  ∧ (∀ (c : Config) (i : BitVec 8), c.idxVmode = some i → c.table.length ≤ i.toNat →
      construct c = .refused .illFormedTable)
  ∧ (∀ c : Config,
      c.table = [] ∨ 256 < c.table.length ∨ c.ceiling = 0 ∨ 65536 < c.ceiling ∨ c.tSettle = 0 →
      construct c = .refused .illFormedTable)
  ∧ (∀ c : Config,
      1 ≤ c.table.length → c.table.length ≤ 256 →
      (∀ r ∈ c.table,
        r.kind.toNat ≤ 5 ∧ 1 ≤ r.len.toNat ∧ r.len.toNat ≤ 17
          ∧ (r.kind.toNat = 0 → r.len.toNat = 1)
          ∧ (1 ≤ r.kind.toNat → r.kind.toNat ≤ 3 → r.len.toNat = 2)
          ∧ (r.kind.toNat = 4 → 3 ≤ r.len.toNat)
          ∧ (r.kind.toNat = 5 → r.len.toNat = 7)) →
      (∀ i, c.idxVmode = some i → ∃ r, c.table[i.toNat]? = some r ∧ r.kind.toNat = 0) →
      ((∃ r ∈ c.table, r.kind.toNat = 3) → c.idxVmode ≠ none) →
      1 ≤ c.ceiling → c.ceiling ≤ 65536 → 0 < c.tSettle →
      construct c = .next { State.reset with cfg := c })

/-! ## Step -/

/-- When no reset signal acts and the word before the sequencer decodes to `i`, the step is `exec i` of the
state with the word taken, and then the sequencer goes on from the phase the word was fetched in (the
model's fetch and queue of inputs, log 10, log 5). -/
def Obligations.StepRunsTheDecodedInstruction : Prop :=
  ∀ (s : State) (w : FetchWord) (i : Instr),
    resetDue s = false → fetch s = .word w → decode w = .ok i →
    step s =
      match exec i (accept s) with
      | .next t => .next (continueFrom s.arch.phase t)
      | .fault r => .fault r
      | .refused r => .refused r

/-- A step in TALLY performs the tally of the latched code by the configured STATUS_MAP, whether or not an
ST8 row numbers it so (40_transaction R116, 92 D5), and the operation goes on to its end. That a step can
begin in TALLY is the model's fetch (log 10). -/
def Obligations.StepTalliesByTheConfiguredMap : Prop :=
  ∀ s : State, s.arch.phase = .tally → resetDue s = false →
    step s = .next (afterTally (tally s.flight.code s))

/-- In IDLE, a legal request word at the head of the inbox is taken and run whole in one step. -/
def Obligations.StepRunsARequest : Prop :=
  ∀ (s : State) (w : Word) (i : Instr) (rest : List HostInput),
    s.arch.phase = .idle → s.env.inbox = .request w :: rest → decode (.req16 w) = .ok i →
    step s = exec i { s with env := { s.env with inbox := rest } }

/-- An illegal request word has result Refused, makes no call, tallies nothing and changes no state
element but PHASE, which returns to IDLE (43_management R175, 30_encoding R73). (The phases passed are the
model's reading, log 21.) -/
def Obligations.IllegalRequestIsRefused : Prop :=
  ∀ (s : State) (w : Word) (rest : List HostInput),
    s.arch.phase = .idle → s.env.inbox = .request w :: rest → (∀ i, decode (.req16 w) ≠ .ok i) →
    step s = .next
      (answered (resultOnly .refused) [.check, .done, .idle]
        { s with env := { s.env with inbox := rest } })

/-- A request is accepted only in IDLE and never dropped (10_state R34, 93 U15): a step in any other phase
leaves every request offered in the inbox, in order, even one in which a reset signal acts. -/
def Obligations.RequestWaitsWhileBusy : Prop :=
  ∀ s t : State, s.arch.phase ≠ .idle → step s = .next t →
    t.env.inbox.filter (fun x => x != .rst) = s.env.inbox.filter (fun x => x != .rst)
    ∧ (.rst ∉ s.env.inbox → t.env.inbox = s.env.inbox)

/-- The reset signal acts in any phase and puts every state element at its reset value; parameters,
history so far, responses, the transport's answers and the requests that wait stay (70 R200, R201). While
an operation is in progress it acts past the requests that wait; in IDLE it acts in its turn (the model's
queue of inputs, log 5). -/
def Obligations.ResetSignalActsInAnyPhase : Prop :=
  ∀ (s : State) (before rest : List HostInput), s.env.inbox = before ++ .rst :: rest →
    .rst ∉ before → before = [] ∨ s.arch.phase ≠ .idle →
    ∃ t, step s = .next t ∧ t.arch = Arch.reset ∧ t.cfg = s.cfg ∧ t.env.inbox = before ++ rest
      ∧ t.env.script = s.env.script ∧ t.env.responses = s.env.responses
      ∧ t.env.history = s.env.history ++ [.rst]

/-- After reset the block does nothing until a request arrives (70 R200). -/
def Obligations.IdleBlockWaits : Prop :=
  ∀ s : State, s.arch.phase = .idle → s.env.inbox = [] → step s = .next s

/-- No exception is raised, ever (60_exceptions R180): every step of every state gives a next state. -/
def Obligations.EveryStepGivesANextState : Prop := ∀ s : State, ∃ t, step s = .next t

/-- The configuration is immutable (20_memory R68, 10_state R36): no step writes the command table or a
parameter. -/
def Obligations.NoStepChangesTheConfiguration : Prop :=
  ∀ s t : State, step s = .next t → t.cfg = s.cfg

/-! ## Reset -/

/-- The reset value of every state element (10_state R38): right after reset, after a RESET request and
after the reset signal (`resetDue`, log 5), the last two leaving table and parameters alone. -/
def Obligations.ResetValues : Prop :=
  let atReset (a : Arch) : Prop :=
    a.addr = 0 ∧ a.existsFlag = false ∧ a.lastStatus = 0x00
      ∧ (∀ k ∈ a.cnt.categories, k = 0) ∧ a.cnt.totalErr = 0 ∧ a.cnt.totalOk = 0
      ∧ (∀ k, readRaw a.raw k = 0)
      ∧ a.respValid = false ∧ a.respLen = 0 ∧ a.respKind = 0 ∧ a.respIdx = 0 ∧ a.asciiOk = false
      ∧ a.vexp = 0 ∧ a.expValid = false
      ∧ a.eAcc = 0 ∧ a.eRoll = 0 ∧ a.eSamp = 0 ∧ a.eLastAcc = 0 ∧ a.eLastRoll = 0 ∧ a.eLastSamp = 0
      ∧ a.eCount = 0 ∧ a.avgPower = 0 ∧ a.avgValid = false ∧ a.phase = .idle ∧ a.curIdx = 0
  atReset State.reset.arch
    ∧ (∀ s : State, ∃ t, exec .reset s = .next t ∧ atReset t.arch ∧ t.cfg = s.cfg)
    ∧ ∀ s : State, resetDue s = true → ∃ t, step s = .next t ∧ atReset t.arch ∧ t.cfg = s.cfg

/-- RESET (43_management R170): every state element takes its reset value, result Success; no transport
call; parameters and outside world stay. That the latches of an operation go back too, and that RESET
passes CHECK, are the model's choices (log 8, log 21). -/
def Obligations.ResetRequest : Prop :=
  ∀ s : State,
    exec .reset s = .next
      { arch := Arch.reset, flight := Flight.reset, cfg := s.cfg
        env := { s.env with
          responses := s.env.responses ++ [resultOnly .success]
          phases := s.env.phases ++ [.check, .done, .idle] } }

/-! ## SETADDR and PROBE -/

/-- SETADDR (43_management R171): op 0x1 with the address in arg; the address is written and the four
flags are cleared; everything else is kept; no call. That it passes CHECK is the model's choice
(log 21). -/
def Obligations.SetaddrRetargets : Prop :=
  ∀ (a : BusAddr) (s : State),
    decode (.req16 (BitVec.ofNat 16 (0x1000 + a.toNat))) = .ok (.setaddr a)
    ∧ exec (.setaddr a) s = .next
      (answered (resultOnly .success) [.check, .done, .idle]
        { s with arch := { s.arch with
            addr := a, existsFlag := false, expValid := false, respValid := false
            asciiOk := false } })

/-- PROBE (43_management R172) when the transport answers `code`: the calls, the tally, EXISTS and the
result; RAW, the tags, VEXP, EXP_VALID and the energy file are not touched. -/
def Obligations.ProbeOutcome : Prop :=
  ∀ (s : State) (code : Byte) (rest : List Answer), s.env.script = .ls code :: rest →
    ∃ t, exec .probe s = .next t
      ∧ t.arch = { (tally code s).arch with
          existsFlag := (tally code s).arch.existsFlag || code == 0x00#8
          phase := .idle }
      ∧ t.cfg = s.cfg ∧ t.env.script = rest ∧ t.env.inbox = s.env.inbox
      ∧ t.env.history = s.env.history ++
          [.settle s.cfg.tSettle, .openWrite s.arch.addr { opening := s.env.opens },
           .closeWrite { opening := s.env.opens } true, .lastStatus code]
      ∧ t.env.responses = s.env.responses ++
          [resultOnly
            (if code = 0x00#8 then .success
             else if (tally code s).arch.existsFlag then .failure else .absent)]

/-- Only a successful PROBE sets EXISTS (40_transaction R128, 10_state R22): a step that raises it concluded a
probe whose code was ST_SUCCESS. Both are read from the latches of the operation just concluded, which are
the model's own (log 8). -/
def Obligations.OnlyASuccessfulProbeRaisesExists : Prop :=
  ∀ s t : State, step s = .next t → t.arch.existsFlag = true → s.arch.existsFlag = false →
    t.flight.op = .probe ∧ t.flight.code = 0x00#8

/-! ## CMD -/

/-- An index outside the table is refused (40_transaction R101, 43_management R175): no call, no tally, no
state element but PHASE changes. That CUR_IDX keeps its value too, where R100 and 60_exceptions R181 row 2
would put the index in it, is the model's choice (log 25); the operation latch is the model's own (log 8). -/
def Obligations.CmdRefusesAnIndexOutsideTheTable : Prop :=
  ∀ (s : State) (i : BitVec 8), s.cfg.table.length ≤ i.toNat →
    exec (.cmd i) s = .next
      (answered (resultOnly .refused) [.check, .done, .idle]
        { s with flight := { s.flight with op := .cmd } })

/-- A CMD while the device is flagged absent answers Absent with no bus activity, no tally and no change
of RAW and tags (40_transaction R102). (The operation latch is the model's, log 8.) -/
def Obligations.CmdIsAbsentWithoutDevice : Prop :=
  ∀ (s : State) (i : BitVec 8), i.toNat < s.cfg.table.length → s.arch.existsFlag = false →
    exec (.cmd i) s = .next
      (answered (resultOnly .absent) [.check, .done, .idle]
        { s with arch := { s.arch with curIdx := i }, flight := { s.flight with op := .cmd } })

/-- An incomplete write (40_transaction R105): any count but 1 closes the write phase releasing the bus,
tallies ST_WR_INCOMPLETE and fails; no read, no last_status; RAW, tags and EXISTS unchanged. (The close is
not one that waits: log 4.) -/
def Obligations.CmdIncompleteWrite : Prop :=
  ∀ (s : State) (i : BitVec 8) (row : CommandSpec) (n : Nat) (rest : List Answer),
    s.cfg.table[i.toNat]? = some row → s.arch.existsFlag = true → s.env.script = .cw n :: rest → n ≠ 1 →
    rest.head? ≠ some (.stall .wrClose) →
    ∃ t, exec (.cmd i) s = .next t
      ∧ t.arch = { s.arch with
          lastStatus := 0x07
          cnt := { s.arch.cnt with
            wrIncomplete := satinc s.arch.cnt.wrIncomplete
            totalErr := satinc s.arch.cnt.totalErr }
          curIdx := i, phase := .idle }
      ∧ t.cfg = s.cfg ∧ t.env.script = rest ∧ t.env.inbox = s.env.inbox
      ∧ t.env.history = s.env.history ++
          [.settle s.cfg.tSettle, .openWrite s.arch.addr { opening := s.env.opens },
           .writeByte { opening := s.env.opens } row.cmd n, .closeWrite { opening := s.env.opens } true]
      ∧ t.env.responses = s.env.responses ++ [resultOnly .failure]

/-- A read failure (40_transaction R108, R109): a status other than success, no bytes, or more than 17;
the detailed code is asked for and tallied, 0xFF in place of ST_SUCCESS; none of the bytes is stored. -/
def Obligations.CmdReadFailure : Prop :=
  ∀ (s : State) (i : BitVec 8) (row : CommandSpec) (bytes : List Byte) (st code : Byte)
    (rest : List Answer),
    s.cfg.table[i.toNat]? = some row → s.arch.existsFlag = true →
    s.env.script = .cw 1 :: .rd bytes st :: .ls code :: rest →
    st ≠ 0x00#8 ∨ bytes.length = 0 ∨ 17 < bytes.length →
    ∃ t, exec (.cmd i) s = .next t
      ∧ t.arch = { (tally (if code = 0x00#8 then 0xFF#8 else code) s).arch with
          curIdx := i, phase := .idle }
      ∧ t.cfg = s.cfg ∧ t.env.script = rest ∧ t.env.inbox = s.env.inbox
      ∧ t.env.history = s.env.history ++ transactionCalls s row bytes st [.lastStatus code]
      ∧ t.env.responses = s.env.responses ++ [resultOnly .failure]

/-- A successful CMD on a row that is neither ASCII nor ENERGY (40_transaction R108, R110, R112): any
count of 1 to 17 bytes, whatever the row declares, is stored in transfer order with its tags and tallied
as a success; the rest of RAW and every other element keeps its value. -/
def Obligations.CmdStoresTheResponse : Prop :=
  ∀ (s : State) (i : BitVec 8) (row : CommandSpec) (bytes : List Byte) (rest : List Answer),
    s.cfg.table[i.toNat]? = some row → s.arch.existsFlag = true →
    s.env.script = .cw 1 :: .rd bytes 0x00 :: rest → 1 ≤ bytes.length → bytes.length ≤ 17 →
    row.kind ≠ kindAscii → row.kind ≠ kindEnergy →
    ∃ t, exec (.cmd i) s = .next t
      ∧ (∀ k, readRaw t.arch.raw k =
          if k < bytes.length then bytes.getD k 0 else readRaw s.arch.raw k)
      ∧ t.arch = { s.arch with
          raw := t.arch.raw, respValid := true, respLen := BitVec.ofNat 5 bytes.length
          respKind := row.kind, respIdx := i, asciiOk := false, lastStatus := 0x00
          cnt := { s.arch.cnt with totalOk := satinc s.arch.cnt.totalOk }
          curIdx := i, phase := .idle }
      ∧ t.cfg = s.cfg ∧ t.env.script = rest ∧ t.env.inbox = s.env.inbox
      ∧ t.env.history = s.env.history ++ transactionCalls s row bytes 0x00 []
      ∧ t.env.responses = s.env.responses ++ [resultOnly .success]

/-- A successful CMD on an ASCII row (40_transaction R111): as any other, and, when the count byte is at
most 16 and within what was received, the terminator is written after the payload and ASCII_OK set; else
nothing more is written and ASCII_OK is 0. -/
def Obligations.CmdTerminatesAsciiResponses : Prop :=
  ∀ (s : State) (i : BitVec 8) (row : CommandSpec) (b : Byte) (bs : List Byte) (rest : List Answer),
    s.cfg.table[i.toNat]? = some row → s.arch.existsFlag = true →
    s.env.script = .cw 1 :: .rd (b :: bs) 0x00 :: rest → bs.length < 17 → row.kind = kindAscii →
    ∃ t, exec (.cmd i) s = .next t
      ∧ (∀ k, readRaw t.arch.raw k =
          if (b.toNat ≤ 16 ∧ b.toNat ≤ bs.length) ∧ k = b.toNat + 1 then 0
          else if k < bs.length + 1 then (b :: bs).getD k 0 else readRaw s.arch.raw k)
      ∧ t.arch = { s.arch with
          raw := t.arch.raw, respValid := true, respLen := BitVec.ofNat 5 (bs.length + 1)
          respKind := kindAscii, respIdx := i
          asciiOk := decide (b.toNat ≤ 16 ∧ b.toNat ≤ bs.length), lastStatus := 0x00
          cnt := { s.arch.cnt with totalOk := satinc s.arch.cnt.totalOk }
          curIdx := i, phase := .idle }
      ∧ t.cfg = s.cfg ∧ t.env.script = rest ∧ t.env.inbox = s.env.inbox
      ∧ t.env.history = s.env.history ++ transactionCalls s row (b :: bs) 0x00 []
      ∧ t.env.responses = s.env.responses ++ [resultOnly .success]

/-- A successful CMD on an ENERGY row (40_transaction R113, 42_energy R150): as any other, and then
ENERGY.UPDATE runs once on the state with the response stored and tallied, as the last step. -/
def Obligations.CmdRunsTheEnergyUpdate : Prop :=
  ∀ (s : State) (i : BitVec 8) (row : CommandSpec) (bytes : List Byte) (rest : List Answer),
    s.cfg.table[i.toNat]? = some row → s.arch.existsFlag = true →
    s.env.script = .cw 1 :: .rd bytes 0x00 :: rest → 1 ≤ bytes.length → bytes.length ≤ 17 →
    row.kind = kindEnergy →
    ∃ t u raw, exec (.cmd i) s = .next t
      ∧ (∀ k, readRaw raw k = if k < bytes.length then bytes.getD k 0 else readRaw s.arch.raw k)
      ∧ exec (.energyUpdate row.len row.cmd)
          { s with arch := { s.arch with
              raw := raw, respValid := true, respLen := BitVec.ofNat 5 bytes.length
              respKind := kindEnergy, respIdx := i, asciiOk := false, lastStatus := 0x00
              cnt := { s.arch.cnt with totalOk := satinc s.arch.cnt.totalOk }
              curIdx := i, phase := .idle } } = .next u
      ∧ t.arch = u.arch
      ∧ t.cfg = s.cfg ∧ t.env.script = rest ∧ t.env.inbox = s.env.inbox
      ∧ t.env.history = s.env.history ++ transactionCalls s row bytes 0x00 []
      ∧ t.env.responses = s.env.responses ++ [resultOnly .success]

/-- A failed transaction changes no data (60_exceptions R188, 40_transaction R115): whatever the transport
answered, a CMD or FETCHEXP that ends in Failure leaves RAW, the tags, VEXP, the energy file and ADDR as
they were; so does one that still waits at a call, and a step that resumes an operation which waited
(the model's stall, log 4). -/
def Obligations.FailedTransactionKeepsTheData : Prop :=
  (∀ (s t : State) (i : Instr), ((∃ idx, i = .cmd idx) ∨ i = .fetchexp) → exec i s = .next t →
    t.env.responses = s.env.responses ++ [resultOnly .failure] ∨ t.env.responses = s.env.responses →
    SameData s t)
  ∧ (∀ s t : State, Waiting s → step s = .next t →
    t.env.responses = s.env.responses ++ [resultOnly .failure] ∨ t.env.responses = s.env.responses →
    SameData s t)

/-- What each request may write (10_state R37), whatever the transport answers and wherever the operation
waits: DECODE nothing but PHASE; PROBE only EXISTS, LAST_STATUS and counters; CMD never ADDR, VEXP,
EXP_VALID, nor EXISTS to 1, CUR_IDX only by its own index and only when that is in the table (log 25), and the
energy file only on a row of kind ENERGY; FETCHEXP never ADDR, nor EXISTS to 1, nor, under a well-formed
configuration, the energy file (R113). A step that resumes an operation which waited (log 4) keeps to the same
bounds; a probe waits in no read phase (CallOrder). -/
def Obligations.RequestsWriteOnlyTheirElements : Prop :=
  (∀ s t : State, exec .decode s = .next t → t.arch = { s.arch with phase := .idle })
  ∧ (∀ s t : State, exec .probe s = .next t →
      t.arch = { s.arch with
        existsFlag := t.arch.existsFlag, lastStatus := t.arch.lastStatus, cnt := t.arch.cnt
        phase := t.arch.phase })
  ∧ (∀ (s t : State) (i : BitVec 8), exec (.cmd i) s = .next t →
      t.arch.addr = s.arch.addr ∧ t.arch.vexp = s.arch.vexp ∧ t.arch.expValid = s.arch.expValid
        ∧ (t.arch.existsFlag = true → s.arch.existsFlag = true)
        ∧ t.arch.curIdx = (if i.toNat < s.cfg.table.length then i else s.arch.curIdx)
        ∧ ((s.cfg.table.getD i.toNat default).kind ≠ kindEnergy → SameEnergyFile s t))
  ∧ (∀ s t : State, exec .fetchexp s = .next t →
      t.arch.addr = s.arch.addr ∧ (t.arch.existsFlag = true → s.arch.existsFlag = true)
        ∧ (s.cfg.wf = true → SameEnergyFile s t))
  ∧ (∀ s t : State, Waiting s → step s = .next t →
      t.arch.addr = s.arch.addr ∧ t.arch.curIdx = s.arch.curIdx
        ∧ (s.flight.op = .cmd → t.arch.vexp = s.arch.vexp ∧ t.arch.expValid = s.arch.expValid)
        ∧ (s.flight.op ≠ .probe → t.arch.existsFlag = true → s.arch.existsFlag = true)
        ∧ ((curRow s).kind ≠ kindEnergy → SameEnergyFile s t)
        ∧ (s.flight.op = .probe → s.arch.phase ≠ .rd →
            t.arch = { s.arch with
              existsFlag := t.arch.existsFlag, lastStatus := t.arch.lastStatus, cnt := t.arch.cnt
              phase := t.arch.phase }))

/-- Exactly one tally per transaction (60_exceptions R186, 40_transaction R115, 43_management R173): a CMD or
FETCHEXP that ends in Success or Failure raises the totals by one in all, one that ends as Absent or Refused
by none; a step that resumes an operation which waited (log 4) raises them by one when it ends and by none
while it still waits. -/
def Obligations.OneTallyPerTransaction : Prop :=
  (∀ (s t : State) (i : Instr) (r : Result), ((∃ idx, i = .cmd idx) ∨ i = .fetchexp) →
    exec i s = .next t → t.env.responses = s.env.responses ++ [resultOnly r] →
    s.arch.cnt.totalOk.toNat < counterMax → s.arch.cnt.totalErr.toNat < counterMax →
    t.arch.cnt.totalOk.toNat + t.arch.cnt.totalErr.toNat =
      s.arch.cnt.totalOk.toNat + s.arch.cnt.totalErr.toNat
        + (if r = .success ∨ r = .failure then 1 else 0))
  ∧ (∀ s t : State, Waiting s → step s = .next t →
    s.arch.cnt.totalOk.toNat < counterMax → s.arch.cnt.totalErr.toNat < counterMax →
    t.arch.cnt.totalOk.toNat + t.arch.cnt.totalErr.toNat =
      s.arch.cnt.totalOk.toNat + s.arch.cnt.totalErr.toNat
        + (if t.arch.phase = .idle then 1 else 0))

/-- Every request ends (20_memory R69), given that each transport call returns (`Responsive`, decision
D40): it leaves from CHECK, moves forward only, passes DONE, is in IDLE again and has answered exactly one
record (10_state R34). That RESET, SETADDR and PROBE, which check nothing, leave from CHECK too is the model's
choice (log 21). -/
def Obligations.RequestsEndWhenTheTransportAnswers : Prop :=
  ∀ (s : State) (i : Instr), Responsive s →
    (i = .probe ∨ i = .fetchexp ∨ i = .decode ∨ i = .reset ∨ (∃ a, i = .setaddr a)
      ∨ ∃ idx, i = .cmd idx) →
    ∃ t r path, exec i s = .next t ∧ t.arch.phase = .idle
      ∧ t.env.responses = s.env.responses ++ [r]
      ∧ t.env.phases = s.env.phases ++ path ∧ operationPath path = true

/-- An operation that waits for the transport ends once it has answered (20_memory R69): from any phase a
call can be waited in, with no reset signal offered, at most one step more than the waiting steps to come
brings the block back to IDLE (the model's stall, log 4). -/
def Obligations.WaitingOperationEnds : Prop :=
  ∀ s : State, restsIn s.arch.phase = true → .rst ∉ s.env.inbox → s.arch.phase ≠ .idle →
    ∃ k t, k ≤ stallsToCome s + 1 ∧ Host.Core.run Sys2Proof.core k s = .next t
      ∧ t.arch.phase = .idle

/-- A transaction in which a call has not returned waits in the phase of that call with the request
unanswered, whichever call it is: in SETTLE, WR_OPEN or WR_BYTE with nothing answered yet, in WR_CLOSE or RD
with the byte accepted, in RD_STATUS with the read failed (20_memory R69; the model's stall, log 4). The
history holds the calls that have returned (log 26). -/
def Obligations.StalledTransactionWaits : Prop :=
  ∀ (s : State) (i : BitVec 8) (row : CommandSpec) (p : Phase) (before rest : List Answer),
    s.cfg.table[i.toNat]? = some row → s.arch.existsFlag = true →
    s.env.script = before ++ .stall p :: rest →
    (before = [] ∧ (p = .settle ∨ p = .wrOpen ∨ p = .wrByte))
      ∨ (before = [.cw 1] ∧ (p = .wrClose ∨ p = .rd))
      ∨ (before = [.cw 1, .rd [] 0x00] ∧ p = .rdStatus) →
    ∃ (t : State) (k : Nat), exec (.cmd i) s = .next t ∧ t.arch = { s.arch with curIdx := i, phase := p }
      ∧ t.env.script = rest ∧ t.env.responses = s.env.responses ∧ t.env.inbox = s.env.inbox
      ∧ t.env.history = s.env.history ++ (transactionCalls s row [] 0x00 []).take k
      ∧ k + 2 = p.rank

/-! ## FETCHEXP -/

/-- FETCHEXP without a mode command is refused and changes nothing, EXP_VALID included; with one, while the
device is flagged absent, it answers Absent and clears EXP_VALID (43_management R173). (The operation latch
is the model's, log 8.) -/
def Obligations.FetchexpWithoutModeCommandOrDevice : Prop :=
  (∀ s : State, s.cfg.idxVmode = none →
    exec .fetchexp s = .next
      (answered (resultOnly .refused) [.check, .done, .idle]
        { s with flight := { s.flight with op := .fetchexp } }))
  ∧ (∀ (s : State) (i : BitVec 8), s.cfg.idxVmode = some i → i.toNat < s.cfg.table.length →
      s.arch.existsFlag = false →
      exec .fetchexp s = .next
        (answered (resultOnly .absent) [.check, .done, .idle]
          { s with
            arch := { s.arch with curIdx := i, expValid := false }
            flight := { s.flight with op := .fetchexp } }))

/-- A successful FETCHEXP (43_management R173, 30_encoding R87): in every respect the transaction of a CMD
on the mode row, and the exponent is the low five bits of the first byte, two's complement. -/
def Obligations.FetchexpLatchesTheExponent : Prop :=
  ∀ (s : State) (i : BitVec 8) (row : CommandSpec) (b : Byte) (bs : List Byte) (rest : List Answer),
    s.cfg.idxVmode = some i → s.cfg.table[i.toNat]? = some row → row.kind = kindByte →
    s.arch.existsFlag = true → s.env.script = .cw 1 :: .rd (b :: bs) 0x00 :: rest → bs.length < 17 →
    ∃ t, exec .fetchexp s = .next t
      ∧ t.arch.vexp.toInt =
          (if b.toNat % 32 < 16 then ((b.toNat % 32 : Nat) : Int) else ((b.toNat % 32 : Nat) : Int) - 32)
      ∧ (∀ k, readRaw t.arch.raw k =
          if k < bs.length + 1 then (b :: bs).getD k 0 else readRaw s.arch.raw k)
      ∧ t.arch = { s.arch with
          vexp := t.arch.vexp, expValid := true
          raw := t.arch.raw, respValid := true, respLen := BitVec.ofNat 5 (bs.length + 1)
          respKind := kindByte, respIdx := i, asciiOk := false, lastStatus := 0x00
          cnt := { s.arch.cnt with totalOk := satinc s.arch.cnt.totalOk }
          curIdx := i, phase := .idle }
      ∧ t.cfg = s.cfg ∧ t.env.script = rest ∧ t.env.inbox = s.env.inbox
      ∧ t.env.history = s.env.history ++ transactionCalls s row (b :: bs) 0x00 []
      ∧ t.env.responses = s.env.responses ++ [resultOnly .success]

/-- A FETCHEXP whose transaction fails (43_management R173): the calls, the tally and the record of a CMD on
the mode row that fails so, and EXP_VALID is cleared. First the incomplete write (40_transaction R105), then
the failed read phase (R108, R109); VEXP, RAW, tags and every other element keep their values. (The close is
not one that waits: log 4.) -/
def Obligations.FetchexpFailsAsACmdDoes : Prop :=
  (∀ (s : State) (i : BitVec 8) (row : CommandSpec) (n : Nat) (rest : List Answer),
    s.cfg.idxVmode = some i → s.cfg.table[i.toNat]? = some row → s.arch.existsFlag = true →
    s.env.script = .cw n :: rest → n ≠ 1 →
    rest.head? ≠ some (.stall .wrClose) →
    ∃ t, exec .fetchexp s = .next t
      ∧ t.arch = { s.arch with
          expValid := false
          lastStatus := 0x07
          cnt := { s.arch.cnt with
            wrIncomplete := satinc s.arch.cnt.wrIncomplete
            totalErr := satinc s.arch.cnt.totalErr }
          curIdx := i, phase := .idle }
      ∧ t.cfg = s.cfg ∧ t.env.script = rest ∧ t.env.inbox = s.env.inbox
      ∧ t.env.history = s.env.history ++
          [.settle s.cfg.tSettle, .openWrite s.arch.addr { opening := s.env.opens },
           .writeByte { opening := s.env.opens } row.cmd n, .closeWrite { opening := s.env.opens } true]
      ∧ t.env.responses = s.env.responses ++ [resultOnly .failure])
  ∧ (∀ (s : State) (i : BitVec 8) (row : CommandSpec) (bytes : List Byte) (st code : Byte)
      (rest : List Answer),
    s.cfg.idxVmode = some i → s.cfg.table[i.toNat]? = some row → s.arch.existsFlag = true →
    s.env.script = .cw 1 :: .rd bytes st :: .ls code :: rest →
    st ≠ 0x00#8 ∨ bytes.length = 0 ∨ 17 < bytes.length →
    ∃ t, exec .fetchexp s = .next t
      ∧ t.arch = { (tally (if code = 0x00#8 then 0xFF#8 else code) s).arch with
          expValid := false, curIdx := i, phase := .idle }
      ∧ t.cfg = s.cfg ∧ t.env.script = rest ∧ t.env.inbox = s.env.inbox
      ∧ t.env.history = s.env.history ++ transactionCalls s row bytes st [.lastStatus code]
      ∧ t.env.responses = s.env.responses ++ [resultOnly .failure])

/-- A FETCHEXP that ends in Failure or Absent leaves EXP_VALID 0 and VEXP as it was, whatever the
transport answered (43_management R173, 10_state R29); so does one that waited (log 4) and fails in the
step that resumes it. -/
def Obligations.FailedFetchexpInvalidatesTheExponent : Prop :=
  (∀ (s t : State) (r : Result), exec .fetchexp s = .next t →
    t.env.responses = s.env.responses ++ [resultOnly r] → r = .failure ∨ r = .absent →
    t.arch.expValid = false ∧ t.arch.vexp = s.arch.vexp)
  ∧ (∀ s t : State, Waiting s → s.flight.op = .fetchexp → step s = .next t →
    t.env.responses = s.env.responses ++ [resultOnly .failure] →
    t.arch.expValid = false ∧ t.arch.vexp = s.arch.vexp)

/-! ## DECODE and the decoders -/

/-- DECODE selects the decoder by the stored kind (41_decoders R130): while a response is valid its record
is the one of the selected decoder, and it changes nothing but PHASE. (The operation latch and the phases
passed are the model's, log 8, log 21.) -/
def Obligations.DecodeRunsTheSelectedDecoder : Prop :=
  ∀ (s : State) (i : Instr), s.arch.respValid = true → decode (.kind3 s.arch.respKind) = .ok i →
    ∃ r, exec i s = .next (answered r [.done, .idle] s)
      ∧ exec .decode s = .next
          (answered r [.check, .done, .idle] { s with flight := { s.flight with op := .decode } })

/-- Decoding is refused (41_decoders R131, R130) when nothing was received, when the kind is reserved, and
when the response is shorter than the decoder needs; the refused record's value fields are zero. (The
operation latch and the phases passed are the model's, log 8, log 21.) -/
def Obligations.DecodeRefusals : Prop :=
  ∀ s : State,
    (s.arch.respValid = false ∨ 6 ≤ s.arch.respKind.toNat
      ∨ (s.arch.respKind.toNat = 0 ∧ s.arch.respLen.toNat < 1)
      ∨ (1 ≤ s.arch.respKind.toNat ∧ s.arch.respKind.toNat ≤ 3 ∧ s.arch.respLen.toNat < 2)
      ∨ (s.arch.respKind.toNat = 3 ∧ s.arch.expValid = false)
      ∨ (s.arch.respKind.toNat = 4 ∧ s.arch.asciiOk = false)
      ∨ (s.arch.respKind.toNat = 5 ∧ s.arch.respLen.toNat < 7)) →
    exec .decode s = .next
      (answered (resultOnly .refused) [.check, .done, .idle]
        { s with flight := { s.flight with op := .decode } })

/-- DEC.BYTE and DEC.WORD (41_decoders R132, R133): pass-through, the word little-endian in transfer
order; refused when too few bytes arrived. -/
def Obligations.PassThroughDecoders : Prop :=
  ∀ s : State,
    exec .decByte s = .next
      (answered
        (if s.arch.respValid = true ∧ 1 ≤ s.arch.respLen.toNat then
          { result := .success, vkind := 0, uval := BitVec.ofNat 16 (readRaw s.arch.raw 0).toNat }
        else resultOnly .refused)
        [.done, .idle] s)
    ∧ exec .decWord s = .next
      (answered
        (if s.arch.respValid = true ∧ 2 ≤ s.arch.respLen.toNat then
          { result := .success, vkind := 1
            uval := BitVec.ofNat 16
              ((readRaw s.arch.raw 0).toNat + 256 * (readRaw s.arch.raw 1).toNat) }
        else resultOnly .refused)
        [.done, .idle] s)

/-- DEC.LINEAR11 (41_decoders R134): exponent bits 15 to 11 and mantissa bits 10 to 0 of the word, each
sign-extended from its own top bit; the record's binary32 is that of `mant * 2^exp`. Refused below two
bytes. -/
def Obligations.Linear11Decoder : Prop :=
  (∀ s : State, s.arch.respValid = true → 2 ≤ s.arch.respLen.toNat →
    let w := (readRaw s.arch.raw 0).toNat + 256 * (readRaw s.arch.raw 1).toNat
    let e : Int := if w / 2048 < 16 then (w / 2048 : Nat) else (w / 2048 : Nat) - 32
    let m : Int := if w % 2048 < 1024 then (w % 2048 : Nat) else (w % 2048 : Nat) - 2048
    ∃ r : Response, exec .decLinear11 s = .next (answered r [.done, .idle] s)
      ∧ r.mant.toInt = m ∧ r.exp.toInt = e ∧ f32Value r.f32 = (m : ℚ) * (2 : ℚ) ^ e
      ∧ (m = 0 → r.f32 = 0)
      ∧ r = { result := .success, vkind := 2, mant := r.mant, exp := r.exp, f32 := r.f32 })
  ∧ (∀ s : State, s.arch.respValid = false ∨ s.arch.respLen.toNat < 2 →
      exec .decLinear11 s = .next (answered (resultOnly .refused) [.done, .idle] s))

/-- DEC.VLINEAR (41_decoders R135): the whole word is an unsigned mantissa, the exponent is VEXP; refused
while EXP_VALID is 0, and below two bytes. Zero is always 0x00000000 (R139). -/
def Obligations.VlinearDecoder : Prop :=
  (∀ s : State, s.arch.respValid = true → s.arch.expValid = true → 2 ≤ s.arch.respLen.toNat →
    let w := (readRaw s.arch.raw 0).toNat + 256 * (readRaw s.arch.raw 1).toNat
    ∃ r : Response, exec .decVlinear s = .next (answered r [.done, .idle] s)
      ∧ r.mant.toInt = (w : Int) ∧ r.exp.toInt = s.arch.vexp.toInt
      ∧ f32Value r.f32 = (w : ℚ) * (2 : ℚ) ^ s.arch.vexp.toInt
      ∧ (w = 0 → r.f32 = 0)
      ∧ r = { result := .success, vkind := 3, mant := r.mant, exp := r.exp, f32 := r.f32 })
  ∧ (∀ s : State,
      s.arch.respValid = false ∨ s.arch.expValid = false ∨ s.arch.respLen.toNat < 2 →
      exec .decVlinear s = .next (answered (resultOnly .refused) [.done, .idle] s))

/-- DEC.ASCII (41_decoders R136): the payload verbatim, then zeros; refused while ASCII_OK is 0. The bound
on the count is what TagsSound promises while ASCII_OK is 1. -/
def Obligations.AsciiDecoder : Prop :=
  (∀ s : State, s.arch.respValid = true → s.arch.asciiOk = true → (readRaw s.arch.raw 0).toNat ≤ 16 →
    ∃ r : Response, exec .decAscii s = .next (answered r [.done, .idle] s)
      ∧ r.slen.toNat = (readRaw s.arch.raw 0).toNat
      ∧ (∀ j (h : j < 17), r.out[j] =
          if j < (readRaw s.arch.raw 0).toNat then readRaw s.arch.raw (j + 1) else 0)
      ∧ r = { result := .success, vkind := 4, slen := r.slen, out := r.out })
  ∧ (∀ s : State, s.arch.respValid = false ∨ s.arch.asciiOk = false →
      exec .decAscii s = .next (answered (resultOnly .refused) [.done, .idle] s))

/-- DEC.ENERGY (41_decoders R137): the three raw fields of the block; byte 0 is ignored. Refused below
seven bytes. -/
def Obligations.EnergyFieldDecoder : Prop :=
  ∀ s : State,
    exec .decEnergy s = .next
      (answered
        (if s.arch.respValid = true ∧ 7 ≤ s.arch.respLen.toNat then
          { result := .success, vkind := 5
            eAcc := BitVec.ofNat 16 ((readRaw s.arch.raw 1).toNat + 256 * (readRaw s.arch.raw 2).toNat)
            eRoll := readRaw s.arch.raw 3
            eSamp := BitVec.ofNat 24 ((readRaw s.arch.raw 4).toNat + 256 * (readRaw s.arch.raw 5).toNat
              + 65536 * (readRaw s.arch.raw 6).toNat) }
        else resultOnly .refused)
        [.done, .idle] s)

/-- Purity (41_decoders R138): DECODE and each decoder give a record that depends on RAW, the tags, VEXP
and EXP_VALID alone, and write nothing but PHASE. -/
def Obligations.DecodersArePure : Prop :=
  ∀ (s t : State) (i : Instr),
    i ∈ [.decode, .decByte, .decWord, .decLinear11, .decVlinear, .decAscii, .decEnergy] →
    s.arch.raw = t.arch.raw → s.arch.respValid = t.arch.respValid → s.arch.respLen = t.arch.respLen →
    s.arch.respKind = t.arch.respKind → s.arch.asciiOk = t.arch.asciiOk → s.arch.vexp = t.arch.vexp →
    s.arch.expValid = t.arch.expValid →
    ∃ u v r, exec i s = .next u ∧ exec i t = .next v
      ∧ u.env.responses = s.env.responses ++ [r] ∧ v.env.responses = t.env.responses ++ [r]
      ∧ u.arch = { s.arch with phase := .idle } ∧ v.arch = { t.arch with phase := .idle }

/-- The binary32 of a decoded value is always exact (41_decoders R139), and zero is positive. -/
def Obligations.DecodedBinary32IsExact : Prop :=
  ∀ m e : Int, -65535 ≤ m → m ≤ 65535 → -16 ≤ e → e ≤ 15 →
    f32Value (f32OfDyadic m e) = (m : ℚ) * (2 : ℚ) ^ e ∧ (m = 0 → f32OfDyadic m e = 0)

/-! ## Tally -/

/-- `satinc` (00_scope R11): one more, but never past the maximum. -/
def Obligations.CountersSaturate : Prop :=
  ∀ c : Counter, (satinc c).toNat = min (c.toNat + 1) (2 ^ 32 - 1)

/-- TALLY.SUCCESS (40_transaction R117). -/
def Obligations.SuccessTally : Prop :=
  ∀ s : State,
    exec .tallySuccess s = .next
      { s with arch := { s.arch with
          lastStatus := 0x00, cnt := { s.arch.cnt with totalOk := satinc s.arch.cnt.totalOk } } }

/-- The five named failure categories that leave EXISTS alone (40_transaction R118, R120, R123, R124,
R125). -/
def Obligations.TransientTallies : Prop :=
  ∀ s : State,
    let total := satinc s.arch.cnt.totalErr
    exec .tallyOversize s = .next { s with arch := { s.arch with
        lastStatus := 0x01
        cnt := { s.arch.cnt with oversize := satinc s.arch.cnt.oversize, totalErr := total } } }
    ∧ exec .tallyDataNack s = .next { s with arch := { s.arch with
        lastStatus := 0x03
        cnt := { s.arch.cnt with dataNack := satinc s.arch.cnt.dataNack, totalErr := total } } }
    ∧ exec .tallyBufOvf s = .next { s with arch := { s.arch with
        lastStatus := 0x06
        cnt := { s.arch.cnt with bufOvf := satinc s.arch.cnt.bufOvf, totalErr := total } } }
    ∧ exec .tallyWrIncomplete s = .next { s with arch := { s.arch with
        lastStatus := 0x07
        cnt := { s.arch.cnt with wrIncomplete := satinc s.arch.cnt.wrIncomplete, totalErr := total } } }
    ∧ exec .tallyMisuse s = .next { s with arch := { s.arch with
        lastStatus := 0x08
        cnt := { s.arch.cnt with misuse := satinc s.arch.cnt.misuse, totalErr := total } } }

/-- The three categories that clear EXISTS (40_transaction R119, R121, R122). -/
def Obligations.ExistenceClearingTallies : Prop :=
  ∀ s : State,
    let total := satinc s.arch.cnt.totalErr
    exec .tallyAddrNack s = .next { s with arch := { s.arch with
        lastStatus := 0x02, existsFlag := false
        cnt := { s.arch.cnt with addrNack := satinc s.arch.cnt.addrNack, totalErr := total } } }
    ∧ exec .tallyTimeout s = .next { s with arch := { s.arch with
        lastStatus := 0x04, existsFlag := false
        cnt := { s.arch.cnt with timeout := satinc s.arch.cnt.timeout, totalErr := total } } }
    ∧ exec .tallyArbLost s = .next { s with arch := { s.arch with
        lastStatus := 0x05, existsFlag := false
        cnt := { s.arch.cnt with arbLost := satinc s.arch.cnt.arbLost, totalErr := total } } }

/-- TALLY.UNKNOWN (40_transaction R126): each of the seven rows counts its codes, 0x09 to 0xFF, as
unknown; EXISTS unchanged. -/
def Obligations.UnknownTallies : Prop :=
  ∀ s : State,
    let t (code : Nat) : Host.Outcome State Fault Refusal := .next { s with arch := { s.arch with
        lastStatus := BitVec.ofNat 8 code
        cnt := { s.arch.cnt with
          unknown := satinc s.arch.cnt.unknown, totalErr := satinc s.arch.cnt.totalErr } } }
    exec .tallyUnknown09 s = t 0x09
    ∧ (∀ low, exec (.tallyUnknown0A low) s = t (0x0A + low.toNat))
    ∧ (∀ low, exec (.tallyUnknown0C low) s = t (0x0C + low.toNat))
    ∧ (∀ low, exec (.tallyUnknown10 low) s = t (0x10 + low.toNat))
    ∧ (∀ low, exec (.tallyUnknown20 low) s = t (0x20 + low.toNat))
    ∧ (∀ low, exec (.tallyUnknown40 low) s = t (0x40 + low.toNat))
    ∧ (∀ low, exec (.tallyUnknown80 low) s = t (0x80 + low.toNat))

/-- The exactly-one law (40_transaction R127): every tally moves exactly one total and, for every code but
ST_SUCCESS, exactly one category counter, by one each while none is saturated; nothing but LAST_STATUS, the
counters and EXISTS changes, and EXISTS is cleared exactly on 0x02, 0x04 and 0x05 (R128). -/
def Obligations.ExactlyOneTallyLaw : Prop :=
  ∀ (code : Byte) (s : State), (∀ k ∈ s.arch.cnt.categories, k.toNat < counterMax) →
    s.arch.cnt.totalErr.toNat < counterMax → s.arch.cnt.totalOk.toNat < counterMax →
    ∃ t, exec (decodeSt8 code) s = .next t
      ∧ t.arch.cnt.totalOk.toNat = s.arch.cnt.totalOk.toNat + (if code = 0x00#8 then 1 else 0)
      ∧ t.arch.cnt.totalErr.toNat = s.arch.cnt.totalErr.toNat + (if code = 0x00#8 then 0 else 1)
      ∧ (∃ k, k < 9 ∧ ∀ j,
          (t.arch.cnt.categories.getD j 0).toNat = (s.arch.cnt.categories.getD j 0).toNat
            + (if j = k ∧ code ≠ 0x00#8 then 1 else 0))
      ∧ t.arch.lastStatus = code
      ∧ t.arch.existsFlag =
          (s.arch.existsFlag && !(code == 0x02#8 || code == 0x04#8 || code == 0x05#8))
      ∧ t = { s with arch := { s.arch with
          lastStatus := t.arch.lastStatus, cnt := t.arch.cnt, existsFlag := t.arch.existsFlag } }

/-! ## Energy accumulator -/

/-- ENERGY.UPDATE (42_energy R159): on a full response the counts, both wraps, the quotient when the sample
count changed, and the write-back of raw values; a response shorter than 7 bytes only clears AVG_VALID
(R151, R157). Nothing outside the energy file changes. -/
def Obligations.EnergyUpdateComputes : Prop :=
  (∀ (s : State) (len : BitVec 5) (cmd : Byte), 7 ≤ s.arch.respLen.toNat →
    let acc := (readRaw s.arch.raw 1).toNat + 256 * (readRaw s.arch.raw 2).toNat
    let roll := (readRaw s.arch.raw 3).toNat
    let samp := (readRaw s.arch.raw 4).toNat + 256 * (readRaw s.arch.raw 5).toNat
      + 65536 * (readRaw s.arch.raw 6).toNat
    let c := s.cfg.ceiling
    let lastCount := s.arch.eLastRoll.toNat * c + s.arch.eLastAcc.toNat
    let count := if roll < s.arch.eLastRoll.toNat then (roll + 256) * c + acc else roll * c + acc
    let dS := if samp < s.arch.eLastSamp.toNat then samp + 16777216 - s.arch.eLastSamp.toNat
      else samp - s.arch.eLastSamp.toNat
    exec (.energyUpdate len cmd) s = .next
      { s with arch := { s.arch with
          avgPower := if dS = 0 then s.arch.avgPower else ((count : ℚ) - (lastCount : ℚ)) / (dS : ℚ)
          avgValid := decide (dS ≠ 0)
          eCount := BitVec.ofNat 32 count
          eAcc := BitVec.ofNat 16 acc, eRoll := BitVec.ofNat 8 roll, eSamp := BitVec.ofNat 24 samp
          eLastAcc := BitVec.ofNat 16 acc, eLastRoll := BitVec.ofNat 8 roll
          eLastSamp := BitVec.ofNat 24 samp } })
  ∧ ∀ (s : State) (len : BitVec 5) (cmd : Byte), s.arch.respLen.toNat < 7 →
      exec (.energyUpdate len cmd) s = .next { s with arch := { s.arch with avgValid := false } }

/-- The rollover property (42_energy R165): after one wrap of the overflow-count byte the average is that
of the unwrapped sequence, for any ceiling. -/
def Obligations.RolloverMatchesTheUnwrappedCount : Prop :=
  ∀ (s t : State) (len : BitVec 5) (cmd : Byte), 7 ≤ s.arch.respLen.toNat →
    energyRoll s.arch.raw < s.arch.eLastRoll → s.arch.eLastSamp < energySamp s.arch.raw →
    exec (.energyUpdate len cmd) s = .next t →
    t.arch.avgValid = true
    ∧ t.arch.avgPower =
        ((((energyRoll s.arch.raw).toNat : ℚ) + 256 - s.arch.eLastRoll.toNat) * s.cfg.ceiling
          + (energyAcc s.arch.raw).toNat - s.arch.eLastAcc.toNat)
        / ((energySamp s.arch.raw).toNat - s.arch.eLastSamp.toNat)

/-- No step of the update wraps (42_energy R160): with a ceiling of 1 to 65536 the 32-bit energy count holds
the exact count, at most 2^25 - 1. -/
def Obligations.EnergyCountNeverWraps : Prop :=
  ∀ (s t : State) (len : BitVec 5) (cmd : Byte), s.cfg.ceiling ≤ 65536 → 7 ≤ s.arch.respLen.toNat →
    exec (.energyUpdate len cmd) s = .next t →
    t.arch.eCount.toNat =
      energyCountCorr s.cfg.ceiling s.arch.eLastRoll.toNat (energyRoll s.arch.raw).toNat
        (energyAcc s.arch.raw).toNat
    ∧ t.arch.eCount.toNat < 2 ^ 25

/-- The register view of the average power (42_energy R164): the finite binary32 nearest to the exact
quotient (no other is closer), ties to even (where another is as close, the view's last bit is 0); zero is
positive. The bounds are those of the magnitude of a quotient that is not zero. -/
def Obligations.AveragePowerViewIsNearest : Prop :=
  let finite (b : BitVec 32) : Prop := b.extractLsb' 23 8 ≠ 255#8
  ∀ q : ℚ, (q = 0 → f32OfRat q = 0)
    ∧ ((1 : ℚ) / 16777215 ≤ |q| → |q| ≤ 33554431 →
        finite (f32OfRat q)
        ∧ (∀ c, finite c → |f32Value (f32OfRat q) - q| ≤ |f32Value c - q|)
        ∧ (∀ c, finite c → c ≠ f32OfRat q → |f32Value c - q| = |f32Value (f32OfRat q) - q| →
            (f32OfRat q).toNat % 2 = 0))

/-! ## Invariants -/

/-- The reset state meets the four invariants below, whatever the open configuration is. -/
def Obligations.ResetMeetsTheInvariants : Prop :=
  TagsSound State.reset ∧ CountersAgree State.reset ∧ EnergyCopiesAgree State.reset
    ∧ CallOrder State.reset

/-- Every step keeps what the tags promise of RAW (10_state R27, 40_transaction R108, R111). -/
def Obligations.StepKeepsTagsSound : Prop :=
  ∀ s t : State, TagsSound s → step s = .next t → TagsSound t

/-- While no error counter has saturated, CNT_TOTAL_ERR is the sum of the category counters (10_state
R25): every step keeps it. -/
def Obligations.StepKeepsCountersAgree : Prop :=
  ∀ s t : State, CountersAgree s → step s = .next t → CountersAgree t

/-- Between operations the last copies equal the current fields (42_energy R158): every step keeps it. -/
def Obligations.StepKeepsEnergyCopiesAgree : Prop :=
  ∀ s t : State, EnergyCopiesAgree s → step s = .next t → EnergyCopiesAgree t

/-- Every transport call is made in the order of 20_memory R64 and 43_management R172, and only after a
settle delay (70 R205): every step keeps the history a run of that protocol, standing where PHASE says, and
no probe stands where a byte is written or read. -/
def Obligations.StepKeepsCallOrder : Prop :=
  ∀ s t : State, CallOrder s → step s = .next t → CallOrder t
end

