-- ==== Sys2Proof/Laws/State.lean ====
section
/-! SUPPORT. What each named update leaves in each field of State: one lemma per field per update, true
by rfl, so that no later proof unfolds a record update. -/

namespace Sys2Proof.Machine

@[simp] theorem enter_arch (p : Phase) (s : State) :
    (enter p s).arch = { s.arch with phase := p } := rfl
@[simp] theorem enter_flight (p : Phase) (s : State) :
    (enter p s).flight = s.flight := rfl
@[simp] theorem enter_env (p : Phase) (s : State) :
    (enter p s).env = { s.env with phases := s.env.phases ++ [p] } := rfl
@[simp] theorem enter_cfg (p : Phase) (s : State) :
    (enter p s).cfg = s.cfg := rfl

@[simp] theorem logEvent_arch (e : Event) (s : State) :
    (logEvent e s).arch = s.arch := rfl
@[simp] theorem logEvent_flight (e : Event) (s : State) :
    (logEvent e s).flight = s.flight := rfl
@[simp] theorem logEvent_env (e : Event) (s : State) :
    (logEvent e s).env = { s.env with history := s.env.history ++ [e] } := rfl
@[simp] theorem logEvent_cfg (e : Event) (s : State) :
    (logEvent e s).cfg = s.cfg := rfl

@[simp] theorem respond_arch (r : Response) (s : State) :
    (respond r s).arch = s.arch := rfl
@[simp] theorem respond_flight (r : Response) (s : State) :
    (respond r s).flight = s.flight := rfl
@[simp] theorem respond_env (r : Response) (s : State) :
    (respond r s).env = { s.env with responses := s.env.responses ++ [r] } := rfl
@[simp] theorem respond_cfg (r : Response) (s : State) :
    (respond r s).cfg = s.cfg := rfl

@[simp] theorem start_arch (op : Op) (s : State) :
    (start op s).arch = { s.arch with phase := .check } := rfl
@[simp] theorem start_flight (op : Op) (s : State) :
    (start op s).flight = { s.flight with op := op } := rfl
@[simp] theorem start_env (op : Op) (s : State) :
    (start op s).env = { s.env with phases := s.env.phases ++ [.check] } := rfl
@[simp] theorem start_cfg (op : Op) (s : State) :
    (start op s).cfg = s.cfg := rfl

@[simp] theorem unstall_arch (s : State) :
    (unstall s).arch = s.arch := rfl
@[simp] theorem unstall_flight (s : State) :
    (unstall s).flight = s.flight := rfl
@[simp] theorem unstall_env (s : State) :
    (unstall s).env = { s.env with script := s.env.script.tail } := rfl
@[simp] theorem unstall_cfg (s : State) :
    (unstall s).cfg = s.cfg := rfl

@[simp] theorem callSettle_arch (s : State) :
    (callSettle s).arch = s.arch := rfl
@[simp] theorem callSettle_flight (s : State) :
    (callSettle s).flight = s.flight := rfl
@[simp] theorem callSettle_env (s : State) :
    (callSettle s).env = { s.env with history := s.env.history ++ [.settle s.cfg.tSettle] } := rfl
@[simp] theorem callSettle_cfg (s : State) :
    (callSettle s).cfg = s.cfg := rfl

@[simp] theorem callOpenWrite_arch (s : State) :
    (callOpenWrite s).arch = s.arch := rfl
@[simp] theorem callOpenWrite_flight (s : State) :
    (callOpenWrite s).flight = { s.flight with handle := { opening := s.env.opens } } := rfl
@[simp] theorem callOpenWrite_env (s : State) :
    (callOpenWrite s).env = { s.env with
      history := s.env.history ++ [.openWrite s.arch.addr { opening := s.env.opens }]
      opens := s.env.opens + 1 } := rfl
@[simp] theorem callOpenWrite_cfg (s : State) :
    (callOpenWrite s).cfg = s.cfg := rfl

@[simp] theorem callCloseWrite_arch (b : Bool) (s : State) :
    (callCloseWrite b s).arch = s.arch := rfl
@[simp] theorem callCloseWrite_flight (b : Bool) (s : State) :
    (callCloseWrite b s).flight = s.flight := rfl
@[simp] theorem callCloseWrite_env (b : Bool) (s : State) :
    (callCloseWrite b s).env = { s.env with history := s.env.history ++ [.closeWrite s.flight.handle b] } := rfl
@[simp] theorem callCloseWrite_cfg (b : Bool) (s : State) :
    (callCloseWrite b s).cfg = s.cfg := rfl

@[simp] theorem tallyAs_arch (k : Category) (code : Byte) (s : State) :
    (tallyAs k code s).arch = { s.arch with
      lastStatus := code
      cnt := bumpTotal k (bumpCategory k s.arch.cnt)
      existsFlag := s.arch.existsFlag && !clearsExists k } := rfl
@[simp] theorem tallyAs_flight (k : Category) (code : Byte) (s : State) :
    (tallyAs k code s).flight = s.flight := rfl
@[simp] theorem tallyAs_env (k : Category) (code : Byte) (s : State) :
    (tallyAs k code s).env = s.env := rfl
@[simp] theorem tallyAs_cfg (k : Category) (code : Byte) (s : State) :
    (tallyAs k code s).cfg = s.cfg := rfl

@[simp] theorem updateEnergy_arch (s : State) :
    (updateEnergy s).arch = energyUpdate s.cfg.ceiling s.arch := rfl
@[simp] theorem updateEnergy_flight (s : State) :
    (updateEnergy s).flight = s.flight := rfl
@[simp] theorem updateEnergy_env (s : State) :
    (updateEnergy s).env = s.env := rfl
@[simp] theorem updateEnergy_cfg (s : State) :
    (updateEnergy s).cfg = s.cfg := rfl

@[simp] theorem resetAll_arch (s : State) :
    (resetAll s).arch = Arch.reset := rfl
@[simp] theorem resetAll_flight (s : State) :
    (resetAll s).flight = Flight.reset := rfl
@[simp] theorem resetAll_env (s : State) :
    (resetAll s).env = s.env := rfl
@[simp] theorem resetAll_cfg (s : State) :
    (resetAll s).cfg = s.cfg := rfl

@[simp] theorem takeInput_arch (s : State) :
    (takeInput s).arch = s.arch := rfl
@[simp] theorem takeInput_flight (s : State) :
    (takeInput s).flight = s.flight := rfl
@[simp] theorem takeInput_env (s : State) :
    (takeInput s).env = { s.env with inbox := s.env.inbox.tail } := rfl
@[simp] theorem takeInput_cfg (s : State) :
    (takeInput s).cfg = s.cfg := rfl

@[simp] theorem takeReset_arch (s : State) :
    (takeReset s).arch = s.arch := rfl
@[simp] theorem takeReset_flight (s : State) :
    (takeReset s).flight = s.flight := rfl
@[simp] theorem takeReset_env (s : State) :
    (takeReset s).env = { s.env with inbox := s.env.inbox.erase .rst } := rfl
@[simp] theorem takeReset_cfg (s : State) :
    (takeReset s).cfg = s.cfg := rfl

@[simp] theorem finish_arch (r : Response) (s : State) :
    (finish r s).arch = { s.arch with phase := .idle } := rfl
@[simp] theorem finish_flight (r : Response) (s : State) : (finish r s).flight = s.flight := rfl
@[simp] theorem finish_cfg (r : Response) (s : State) : (finish r s).cfg = s.cfg := rfl
@[simp] theorem finish_env (r : Response) (s : State) :
    (finish r s).env = { s.env with
      responses := s.env.responses ++ [r]
      phases := s.env.phases ++ [.done, .idle] } := by
  simp [finish]

/-- `finish` is `answered` along DONE, IDLE. -/
theorem finish_eq_answered (r : Response) (s : State) :
    finish r s = answered r [.done, .idle] s := by
  simp [finish, answered, enter, respond]

end Sys2Proof.Machine
end

