-- ==== Sys2Proof/Laws/Ops.lean ====
section
/-! SUPPORT. One lemma per shared operation: what it can do, said once. -/

namespace Sys2Proof.Machine

/-! ## Counters -/

/-- `satinc` adds one below the maximum and keeps the maximum (00_scope R11). -/
theorem satinc_of_lt {c : Counter} (h : c.toNat < counterMax) : (satinc c).toNat = c.toNat + 1 := by
  simp only [satinc, counterMax] at *
  rw [if_pos h, BitVec.toNat_add]
  simp; omega

theorem satinc_of_max {c : Counter} (h : ¬ c.toNat < counterMax) : satinc c = c := by
  simp only [satinc, counterMax] at *
  rw [if_neg h]

/-- `satinc` never decreases a counter. -/
theorem le_satinc (c : Counter) : c.toNat ≤ (satinc c).toNat := by
  by_cases h : c.toNat < counterMax
  · rw [satinc_of_lt h]; omega
  · rw [satinc_of_max h]

/-! ## RAW -/

/-- Inside the buffer a read is the byte there (20_memory R52). -/
theorem readRaw_of_lt (raw : RawBuf) {k : Nat} (h : k < rawCap) : readRaw raw k = raw[k] := by
  simp [readRaw, Vector.getD, Array.getD, h]

/-- Nothing lies beyond the buffer (20_memory R52). -/
theorem readRaw_of_ge (raw : RawBuf) {k : Nat} (h : 18 ≤ k) : readRaw raw k = 0 := by
  simp [readRaw, Vector.getD, Array.getD, show ¬ k < 18 by omega]

/-- Two buffers that read alike are equal. -/
theorem rawBuf_ext {a b : RawBuf} (h : ∀ k, readRaw a k = readRaw b k) : a = b := by
  apply Vector.ext
  intro i hi
  rw [← readRaw_of_lt a hi, ← readRaw_of_lt b hi, h i]

/-- Reading after writing one byte. -/
theorem readRaw_writeRaw (raw : RawBuf) (k j : Nat) (b : Byte) :
    readRaw (writeRaw raw k b) j = if j = k ∧ k < 18 then b else readRaw raw j := by
  by_cases hj : j < rawCap
  · rw [readRaw_of_lt _ hj, readRaw_of_lt _ hj, writeRaw, Vector.getElem_setIfInBounds]
    by_cases hk : k = j
    · subst hk; simp [show k < 18 from hj]
    · simp [hk, show ¬ j = k from fun h => hk h.symm]
  · have hj' : 18 ≤ j := Nat.le_of_not_lt hj
    rw [readRaw_of_ge _ hj', readRaw_of_ge _ hj', if_neg]
    omega

/-- Reading after storing bytes in transfer order (40_transaction R110). -/
theorem readRaw_storeBytes (bytes : List Byte) : ∀ (raw : RawBuf) (k j : Nat),
    readRaw (storeBytes raw k bytes) j =
      if k ≤ j ∧ j < k + bytes.length ∧ j < 18 then bytes.getD (j - k) 0 else readRaw raw j := by
  induction bytes with
  | nil => intro raw k j; simp only [storeBytes, List.length_nil]; rw [if_neg]; omega
  | cons b bs ih =>
    intro raw k j
    simp only [storeBytes, ih, readRaw_writeRaw, List.length_cons]
    by_cases h1 : j = k
    · subst h1
      by_cases h2 : j < 18
      · rw [if_neg (by omega), if_pos (by omega), if_pos (by omega)]; simp
      · rw [if_neg (by omega), if_neg (by omega), if_neg (by omega)]
    · by_cases h2 : k + 1 ≤ j ∧ j < k + 1 + bs.length ∧ j < 18
      · rw [if_pos h2, if_pos (by omega), show j - k = (j - (k + 1)) + 1 by omega, List.getD_cons_succ]
      · rw [if_neg h2, if_neg (by omega), if_neg (by omega)]

/-- Reading after a response of at most 17 bytes was stored from index 0. -/
theorem readRaw_stored (raw : RawBuf) {bytes : List Byte} (h : bytes.length ≤ 17) (j : Nat) :
    readRaw (storeBytes raw 0 bytes) j =
      if j < bytes.length then bytes.getD j 0 else readRaw raw j := by
  rw [readRaw_storeBytes]
  by_cases hj : j < bytes.length
  · rw [if_pos (by omega), if_pos hj]; rfl
  · rw [if_neg (by omega), if_neg hj]

/-! ## The transport's answers -/

/-- A responsive transport lets no call wait (20_memory R69). -/
theorem stalled_of_responsive {s : State} (h : Responsive s) : stalled s = false := by
  unfold stalled
  split
  · next p rest heq => exact absurd (h (.stall p) (heq ▸ List.mem_cons_self)) (by simp [Answer.isStall])
  · rfl

/-- A call waits exactly when a stall of its phase is next. -/
theorem stalled_eq_true {s : State} (h : stalled s = true) :
    ∃ rest, s.env.script = .stall s.arch.phase :: rest := by
  unfold stalled at h
  split at h
  · next p rest heq => exact ⟨rest, by rw [heq, eq_of_beq h]⟩
  · cases h

/-- What drawing an answer does to the state: the script loses at most its head, or one more free value
is counted; nothing else moves. -/
def Drawn (s t : State) : Prop :=
  t.arch = s.arch ∧ t.flight = s.flight ∧ t.cfg = s.cfg
    ∧ ((∃ a, Answer.isStall a = false ∧ s.env.script = a :: t.env.script
          ∧ t.env = { s.env with script := t.env.script })
      ∨ t.env = { s.env with draws := s.env.draws + 1 })

theorem countAnswer_drawn (s : State) : Drawn s (countAnswer s).2 := by
  unfold countAnswer
  split
  · next n rest h => exact ⟨rfl, rfl, rfl, .inl ⟨.cw n, rfl, h, rfl⟩⟩
  · exact ⟨rfl, rfl, rfl, .inr rfl⟩

theorem readAnswer_drawn (s : State) : Drawn s (readAnswer s).2 := by
  unfold readAnswer
  split
  · next b st rest h => exact ⟨rfl, rfl, rfl, .inl ⟨.rd b st, rfl, h, rfl⟩⟩
  · exact ⟨rfl, rfl, rfl, .inr rfl⟩

theorem statusAnswer_drawn (s : State) : Drawn s (statusAnswer s).2 := by
  unfold statusAnswer
  split
  · next c rest h => exact ⟨rfl, rfl, rfl, .inl ⟨.ls c, rfl, h, rfl⟩⟩
  · exact ⟨rfl, rfl, rfl, .inr rfl⟩

/-- Drawing an answer changes nothing of the environment but script and draws. -/
theorem Drawn.env_eq {s t : State} (h : Drawn s t) :
    t.env = { s.env with script := t.env.script, draws := t.env.draws } := by
  obtain ⟨-, -, -, ⟨a, -, -, h⟩ | h⟩ := h <;> rw [h]

/-- No stall comes into the script by drawing. -/
theorem Drawn.stalls {s t : State} (h : Drawn s t) :
    stallsToCome t = stallsToCome s := by
  obtain ⟨-, -, -, ⟨a, ha, hs, -⟩ | h⟩ := h
  · rw [stallsToCome, stallsToCome, hs, List.countP_cons_of_neg (by simp [ha])]
  · rw [stallsToCome, h]; rfl

end Sys2Proof.Machine
end

