-- ==== Sys2Proof/Laws/Decode.lean ====
section
/-! SUPPORT. What the decoder can answer: the fields of a request word as numbers, the words of each
format that are instructions, and what the selected micro-operations do. -/

namespace Sys2Proof.Machine

/-! ## Request words (30_encoding R70 to R73) -/

theorem reqOp_toNat (w : Word) : (reqOp w).toNat = w.toNat / 4096 := by
  simp [reqOp, BitVec.extractLsb'_toNat, Nat.shiftRight_eq_div_pow]; omega

theorem reqZero_toNat (w : Word) : (reqZero w).toNat = w.toNat / 256 % 16 := by
  simp [reqZero, BitVec.extractLsb'_toNat, Nat.shiftRight_eq_div_pow]

theorem reqArg_toNat (w : Word) : (reqArg w).toNat = w.toNat % 256 := by
  simp [reqArg, BitVec.extractLsb'_toNat]

/-- A request word is its three fields. -/
theorem reqWord_eq {w v : Word} (h1 : reqOp w = reqOp v) (h2 : reqZero w = reqZero v)
    (h3 : reqArg w = reqArg v) : w = v := by
  have a := congrArg BitVec.toNat h1
  have b := congrArg BitVec.toNat h2
  have c := congrArg BitVec.toNat h3
  rw [reqOp_toNat, reqOp_toNat] at a
  rw [reqZero_toNat, reqZero_toNat] at b
  rw [reqArg_toNat, reqArg_toNat] at c
  apply BitVec.eq_of_toNat_eq
  omega

/-- Bit 7 of an operand byte is clear exactly below 128 (R73). -/
theorem argBit7_eq_zero : ∀ b : BitVec 8, b.extractLsb' 7 1 = 0 ↔ b.toNat < 128 := by decide

/-- A legal request word is one of the six operations. -/
theorem decodeReq16_cases {w : Word} {i : Instr} (h : decodeReq16 w = .ok i) :
    reqZero w = 0 ∧
      ((reqOp w = 1 ∧ (reqArg w).toNat < 128 ∧ i = .setaddr ((reqArg w).extractLsb' 0 7))
        ∨ (reqOp w = 2 ∧ reqArg w = 0 ∧ i = .probe)
        ∨ (reqOp w = 3 ∧ i = .cmd (reqArg w))
        ∨ (reqOp w = 4 ∧ reqArg w = 0 ∧ i = .fetchexp)
        ∨ (reqOp w = 5 ∧ reqArg w = 0 ∧ i = .decode)
        ∨ (reqOp w = 15 ∧ reqArg w = 0 ∧ i = .reset)) := by
  simp only [decodeReq16, decodeNoArg, argBit7_eq_zero] at h
  by_cases hz : reqZero w = 0
  · rw [if_neg (not_not.mpr hz)] at h
    refine ⟨hz, ?_⟩
    repeat' split at h
    all_goals first
      | (cases h; done)
      | (cases h; simp only [*, and_self, true_or, or_true])
  · rw [if_pos hz] at h
    cases h

/-! ## Micro-operations -/

/-- A kind that is not reserved selects its decoder (R75). -/
theorem decodeKind3_cases {k : BitVec 3} {i : Instr} (h : decodeKind3 k = .ok i) :
    (k = kindByte ∧ i = .decByte) ∨ (k = kindWord ∧ i = .decWord)
      ∨ (k = kindLinear11 ∧ i = .decLinear11) ∨ (k = kindVlinear ∧ i = .decVlinear)
      ∨ (k = kindAscii ∧ i = .decAscii) ∨ (k = kindEnergy ∧ i = .decEnergy) := by
  simp only [decodeKind3] at h
  repeat' split at h
  all_goals first
    | (cases h; done)
    | (cases h; simp only [*, and_self, true_or, or_true])

/-- While a response is valid, the decoder its kind selects answers the record of DECODE
(41_decoders R130). -/
theorem exec_selected {s : State} {i : Instr} (h : decodeKind3 s.arch.respKind = .ok i)
    (hv : s.arch.respValid = true) : exec i s = .next (finish (decodeResponse s.arch) s) := by
  simp only [decodeResponse, hv, if_true]
  rcases decodeKind3_cases h with ⟨hk, rfl⟩ | ⟨hk, rfl⟩ | ⟨hk, rfl⟩ | ⟨hk, rfl⟩ | ⟨hk, rfl⟩ | ⟨hk, rfl⟩ <;>
    rw [hk] <;> rfl

/-- A packed table row selects ENERGY.UPDATE or nothing (R74). -/
theorem decodeCt16_cases {w : Word} {i : Instr} (h : decodeCt16 w = .ok i) :
    (CommandSpec.unpack w).kind = kindEnergy
      ∧ i = .energyUpdate (CommandSpec.unpack w).len (CommandSpec.unpack w).cmd := by
  simp only [decodeCt16] at h
  split at h
  · next hk => cases h; exact ⟨hk, rfl⟩
  · cases h

/-- The category and code of a tally rule (R77). -/
def tallyRule : Instr → Option (Category × Byte)
  | .tallySuccess => some (.success, stSuccess)
  | .tallyOversize => some (.oversize, stOversize)
  | .tallyAddrNack => some (.addrNack, stAddrNack)
  | .tallyDataNack => some (.dataNack, stDataNack)
  | .tallyTimeout => some (.timeout, stTimeout)
  | .tallyArbLost => some (.arbLost, stArbLost)
  | .tallyBufOvf => some (.bufOvf, stBufOvf)
  | .tallyWrIncomplete => some (.wrIncomplete, stWrIncomplete)
  | .tallyMisuse => some (.misuse, stMisuse)
  | .tallyUnknown09 => some (.unknown, 0x09#8)
  | .tallyUnknown0A low => some (.unknown, 0b0000101#7 ++ low)
  | .tallyUnknown0C low => some (.unknown, 0b000011#6 ++ low)
  | .tallyUnknown10 low => some (.unknown, 0b0001#4 ++ low)
  | .tallyUnknown20 low => some (.unknown, 0b001#3 ++ low)
  | .tallyUnknown40 low => some (.unknown, 0b01#2 ++ low)
  | .tallyUnknown80 low => some (.unknown, 0b1#1 ++ low)
  | .setaddr _ | .probe | .cmd _ | .fetchexp | .decode | .reset => none
  | .decByte | .decWord | .decLinear11 | .decVlinear | .decAscii | .decEnergy => none
  | .energyUpdate _ _ => none

/-- A tally instruction tallies its code by its category. -/
theorem exec_of_tallyRule {i : Instr} {k : Category} {c : Byte} (h : tallyRule i = some (k, c))
    (s : State) : exec i s = .next (tallyAs k c s) := by
  cases i <;> simp only [tallyRule, Option.some.injEq, Prod.mk.injEq, reduceCtorEq] at h <;>
    obtain ⟨rfl, rfl⟩ := h <;> rfl

/-- The ST8 row of a code is the rule that the default STATUS_MAP gives it (R77, R78). -/
theorem tallyRule_decodeSt8 :
    ∀ c : Byte, tallyRule (decodeSt8 c) = some (statusMap StatusMap.standard c, c) := by decide

/-- Where the configured map follows the table, the ST8 row of a code is its tally (40_transaction R116). -/
theorem exec_decodeSt8 {s : State} {c : Byte} (h : followsTable s.cfg.statusMap c = true) :
    exec (decodeSt8 c) s = .next (tally c s) := by
  rw [exec_of_tallyRule (tallyRule_decodeSt8 c), tally, eq_of_beq h]

end Sys2Proof.Machine
end

