-- ==== Sys2Proof/Laws/Operands.lean ====
section
/-! SUPPORT. The values of the operand forms as numbers (20_memory R56, R57, 30_encoding R83, R87). -/

namespace Sys2Proof.Machine

/-- A byte in front of `n` lower bits. -/
theorem append_toNat {m n : Nat} (a : BitVec m) (b : BitVec n) :
    (a ++ b).toNat = 2 ^ n * a.toNat + b.toNat := by
  rw [BitVec.toNat_append, Nat.shiftLeft_eq, Nat.mul_comm, Nat.two_pow_add_eq_or_of_lt b.isLt]

/-- `W = RAW[0] + 256 * RAW[1]` (R56). -/
theorem rawWord_toNat (raw : RawBuf) :
    (rawWord raw).toNat = (readRaw raw 0).toNat + 256 * (readRaw raw 1).toNat :=
  (append_toNat _ _).trans (Nat.add_comm _ _)

/-- The accumulator of an ENERGY block (R57). -/
theorem energyAcc_toNat (raw : RawBuf) :
    (energyAcc raw).toNat = (readRaw raw 1).toNat + 256 * (readRaw raw 2).toNat :=
  (append_toNat _ _).trans (Nat.add_comm _ _)

/-- The sample count of an ENERGY block (R57). -/
theorem energySamp_toNat (raw : RawBuf) :
    (energySamp raw).toNat =
      (readRaw raw 4).toNat + 256 * (readRaw raw 5).toNat + 65536 * (readRaw raw 6).toNat := by
  have h1 := append_toNat (readRaw raw 6 ++ readRaw raw 5) (readRaw raw 4)
  have h2 := append_toNat (readRaw raw 6) (readRaw raw 5)
  refine h1.trans ?_
  rw [h2]
  omega

/-- The exponent field of a LINEAR11 word, bits 15:11 (R83). -/
theorem linearExp_toNat (w : Word) : (linearExp w).toNat = w.toNat / 2048 := by
  have := w.isLt
  simp [linearExp, BitVec.extractLsb'_toNat, Nat.shiftRight_eq_div_pow]
  omega

/-- The mantissa field of a LINEAR11 word, bits 10:0 (R83). -/
theorem linearMant_toNat (w : Word) : (linearMant w).toNat = w.toNat % 2048 := by
  simp [linearMant, BitVec.extractLsb'_toNat]

/-- The exponent of a mode byte is its low five bits, two's complement (R87). -/
theorem modeExp_toInt : ∀ b : Byte, (modeExp b).toInt =
    if b.toNat % 32 < 16 then ((b.toNat % 32 : Nat) : Int) else ((b.toNat % 32 : Nat) : Int) - 32 := by
  decide

/-- The exponent field is extended from its own top bit (30_encoding R88). -/
theorem signExtend_exp_toInt : ∀ b : BitVec 5, (b.signExtend 6).toInt =
    if b.toNat < 16 then (b.toNat : Int) else b.toNat - 32 := by decide

/-- The mantissa field is extended from its own top bit (30_encoding R88). -/
theorem signExtend_mant_toInt (b : BitVec 11) : (b.signExtend 17).toInt =
    if b.toNat < 1024 then (b.toNat : Int) else b.toNat - 2048 := by
  rw [BitVec.toInt_signExtend_of_le (by omega), BitVec.toInt_eq_toNat_cond]
  split <;> split <;> omega

end Sys2Proof.Machine
end

