-- ==== Sys2Proof/Laws/PerInstr.lean ====
section
/-! SUPPORT. The per-instruction family `RoundTrip`: decoding the encoding of an instruction gives it
back, one lemma per constructor of `Instr`. -/

namespace Sys2Proof.Laws

/-! ## Packed table rows -/

/-- The bits of a packed table row (30_encoding R74). -/
theorem pack_getLsbD (r : CommandSpec) (i : Nat) :
    r.pack.getLsbD i =
      if i < 8 then r.cmd.getLsbD i
      else if i < 13 then r.len.getLsbD (i - 8) else r.kind.getLsbD (i - 13) := by
  simp only [CommandSpec.pack]
  erw [BitVec.getLsbD_append, BitVec.getLsbD_append]
  by_cases h1 : i < 8
  · simp [h1]
  · by_cases h2 : i < 13
    · simp [h1, h2, show i - 8 < 5 by omega]
    · simp [h1, h2, show ¬ i - 8 < 5 by omega, show i - 8 - 5 = i - 13 by omega]

/-- Unpacking a packed table row gives the row back (30_encoding R74). -/
theorem unpack_pack (r : CommandSpec) : CommandSpec.unpack r.pack = r := by
  obtain ⟨cmd, len, kind⟩ := r
  simp only [CommandSpec.unpack, CommandSpec.mk.injEq]
  refine ⟨?_, ?_, ?_⟩ <;> apply BitVec.eq_of_getLsbD_eq <;> intro i hi <;>
    simp only [BitVec.getLsbD_extractLsb', hi, decide_true, Bool.true_and, pack_getLsbD]
  · simp [hi]
  · simp [show 8 + i < 13 by omega]
  · simp [show ¬ 13 + i < 8 by omega]

/-- Packing an unpacked table row gives the word back (30_encoding R74). -/
theorem pack_unpack (w : Word) : (CommandSpec.unpack w).pack = w := by
  apply BitVec.eq_of_getLsbD_eq
  intro i hi
  simp only [pack_getLsbD, CommandSpec.unpack, BitVec.getLsbD_extractLsb']
  by_cases h1 : i < 8
  · simp [h1]
  · by_cases h2 : i < 13
    · simp [h1, h2, show i - 8 < 5 by omega, show 8 + (i - 8) = i by omega]
    · simp [h1, h2, show i - 13 < 3 by omega, show 13 + (i - 13) = i by omega]

/-! ## The family -/

/-- Decoding what `encode` writes gives the instruction back. -/
def RoundTrip.Statement (i : Instr) : Prop := Sys2Proof.decode (encode i) = .ok i

theorem RoundTrip.setaddr (a : BusAddr) : RoundTrip.Statement (.setaddr a) := by
  revert a; unfold RoundTrip.Statement; decide
theorem RoundTrip.probe : RoundTrip.Statement .probe := by rfl
theorem RoundTrip.cmd (i : BitVec 8) : RoundTrip.Statement (.cmd i) := by
  revert i; unfold RoundTrip.Statement; decide
theorem RoundTrip.fetchexp : RoundTrip.Statement .fetchexp := by rfl
theorem RoundTrip.decode : RoundTrip.Statement .decode := by rfl
theorem RoundTrip.reset : RoundTrip.Statement .reset := by rfl
theorem RoundTrip.decByte : RoundTrip.Statement .decByte := by rfl
theorem RoundTrip.decWord : RoundTrip.Statement .decWord := by rfl
theorem RoundTrip.decLinear11 : RoundTrip.Statement .decLinear11 := by rfl
theorem RoundTrip.decVlinear : RoundTrip.Statement .decVlinear := by rfl
theorem RoundTrip.decAscii : RoundTrip.Statement .decAscii := by rfl
theorem RoundTrip.decEnergy : RoundTrip.Statement .decEnergy := by rfl
theorem RoundTrip.energyUpdate (len : BitVec 5) (cmd : Byte) :
    RoundTrip.Statement (.energyUpdate len cmd) := by
  simp only [RoundTrip.Statement, encode, Sys2Proof.decode, decodeCt16, unpack_pack, if_true]
theorem RoundTrip.tallySuccess : RoundTrip.Statement .tallySuccess := by rfl
theorem RoundTrip.tallyOversize : RoundTrip.Statement .tallyOversize := by rfl
theorem RoundTrip.tallyAddrNack : RoundTrip.Statement .tallyAddrNack := by rfl
theorem RoundTrip.tallyDataNack : RoundTrip.Statement .tallyDataNack := by rfl
theorem RoundTrip.tallyTimeout : RoundTrip.Statement .tallyTimeout := by rfl
theorem RoundTrip.tallyArbLost : RoundTrip.Statement .tallyArbLost := by rfl
theorem RoundTrip.tallyBufOvf : RoundTrip.Statement .tallyBufOvf := by rfl
theorem RoundTrip.tallyWrIncomplete : RoundTrip.Statement .tallyWrIncomplete := by rfl
theorem RoundTrip.tallyMisuse : RoundTrip.Statement .tallyMisuse := by rfl
theorem RoundTrip.tallyUnknown09 : RoundTrip.Statement .tallyUnknown09 := by rfl
theorem RoundTrip.tallyUnknown0A (low : BitVec 1) : RoundTrip.Statement (.tallyUnknown0A low) := by
  revert low; unfold RoundTrip.Statement; decide
theorem RoundTrip.tallyUnknown0C (low : BitVec 2) : RoundTrip.Statement (.tallyUnknown0C low) := by
  revert low; unfold RoundTrip.Statement; decide
theorem RoundTrip.tallyUnknown10 (low : BitVec 4) : RoundTrip.Statement (.tallyUnknown10 low) := by
  revert low; unfold RoundTrip.Statement; decide
theorem RoundTrip.tallyUnknown20 (low : BitVec 5) : RoundTrip.Statement (.tallyUnknown20 low) := by
  revert low; unfold RoundTrip.Statement; decide
theorem RoundTrip.tallyUnknown40 (low : BitVec 6) : RoundTrip.Statement (.tallyUnknown40 low) := by
  revert low; unfold RoundTrip.Statement; decide
theorem RoundTrip.tallyUnknown80 (low : BitVec 7) : RoundTrip.Statement (.tallyUnknown80 low) := by
  revert low; unfold RoundTrip.Statement; decide

end Sys2Proof.Laws
end

