-- ==== Sys2Proof/Laws/Sequencer.lean ====
section
/-! SUPPORT. What the sequencer can do: one equation per phase when its call returns, and the preservation
principle `Kept`: a property kept by each thing a transaction does to the state is kept by a transaction,
from any phase to its end or to a call that waits. -/

namespace Sys2Proof.Machine

/-! ## One phase at a time -/

theorem atSettle_of_not_stalled {s : State} (h : stalled s = false) :
    atSettle s = atWrOpen (enter .wrOpen (callSettle s)) := by simp [atSettle, h]

theorem atWrOpen_of_not_stalled {s : State} (h : stalled s = false) :
    atWrOpen s = if s.flight.op = .probe then atWrClose (enter .wrClose (callOpenWrite s))
      else atWrByte (enter .wrByte (callOpenWrite s)) := by simp [atWrOpen, h]

theorem atWrByte_of_not_stalled {s : State} (h : stalled s = false) :
    atWrByte s = atWrClose (enter .wrClose (callWriteByte (curRow s).cmd s)) := by simp [atWrByte, h]

theorem atWrClose_of_not_stalled {s : State} (h : stalled s = false) :
    atWrClose s = if s.flight.op = .probe then atRdStatus (enter .rdStatus (callCloseWrite true s))
      else if s.flight.cw ≠ 1 then toTally stWrIncomplete .failure (callCloseWrite true s)
      else atRd (enter .rd (callCloseWrite false s)) := by simp [atWrClose, h]

theorem atRd_of_not_stalled {s : State} (h : stalled s = false) :
    atRd s =
      let r := callRead (curRow s).len.toNat s
      if readOk r.1.1 r.1.2 then
        atStore (enter .store { r.2 with flight := { r.2.flight with bytes := r.1.1 } })
      else atRdStatus (enter .rdStatus r.2) := by simp [atRd, h]

theorem atRdStatus_of_not_stalled {s : State} (h : stalled s = false) :
    atRdStatus s =
      let r := callLastStatus s
      toTally (if s.flight.op = .probe then r.1 else failureCode r.1) .failure r.2 := by
  simp [atRdStatus, h]

/-- A state is stalled or not by its script and its phase. -/
theorem stalled_congr {s t : State} (h : t.env.script = s.env.script) (hp : t.arch.phase = s.arch.phase) :
    stalled t = stalled s := by
  simp only [stalled, h, hp]

/-! ## What a transaction keeps -/

/-- `P` is kept by each thing a transaction does to the state. -/
structure Kept (P : State → Prop) : Prop where
  enter : ∀ p s, P s → P (enter p s)
  log : ∀ e s, P s → P (logEvent e s)
  respond : ∀ r s, P s → P (respond r s)
  world : ∀ s e, e.inbox = s.env.inbox → e.history = s.env.history → e.responses = s.env.responses →
    e.phases = s.env.phases → P s → P { s with env := e }
  carry : ∀ s f, f.op = s.flight.op → P s → P { s with flight := f }
  tally : ∀ code s, P s → P (tally code s)
  store : ∀ s, readOk s.flight.bytes stSuccess = true → P s →
    P { s with arch := storeResponse (curRow s) s.arch.curIdx s.flight.bytes s.arch }
  energy : ∀ s, energyDue s = true → P s → P (updateEnergy s)
  exponent : ∀ s, s.flight.op = .fetchexp → P s → P (latchExponent s)
  probe : ∀ s, s.flight.op = .probe → P s → P (latchProbe s)

namespace Kept

variable {P : State → Prop} (K : Kept P)
include K

theorem finish {r : Response} {s : State} (h : P s) : P (finish r s) :=
  K.enter _ _ (K.respond _ _ (K.enter _ _ h))

theorem unstall {s : State} (h : P s) : P (unstall s) := K.world s _ rfl rfl rfl rfl h

theorem drawn {s t : State} (d : Drawn s t) (h : P s) : P t := by
  have ht : t = { s with env := t.env } := by
    cases t; obtain ⟨h1, h2, h3, -⟩ := d; simp only at h1 h2 h3; subst h1 h2 h3; rfl
  have he := d.env_eq
  rw [ht]
  exact K.world s _ (by rw [he]) (by rw [he]) (by rw [he]) (by rw [he]) h

theorem conclude {s : State} (h : P s) : P (conclude s) := by
  unfold Machine.conclude
  split
  · exact K.finish h
  · next hop => exact K.finish (K.exponent s hop h)
  · next hop => exact K.finish (K.probe s hop h)
  · exact K.finish h

theorem afterTally {s : State} (h : P s) : P (afterTally s) := by
  unfold Machine.afterTally
  split
  · next hd => exact K.conclude (K.energy _ hd (K.enter _ _ h))
  · exact K.conclude h

theorem atTally {s : State} (h : P s) : P (atTally s) := K.afterTally (K.tally _ _ h)

theorem toTally {code : Byte} {r : Result} {s : State} (h : P s) : P (toTally code r s) :=
  K.atTally (K.enter _ _ (K.carry s { s.flight with code := code, result := r } rfl h))

theorem atStore {s : State} (hok : readOk s.flight.bytes stSuccess = true) (h : P s) : P (atStore s) :=
  K.toTally (K.store s hok h)

theorem atRdStatus {s : State} (h : P s) : P (atRdStatus s) := by
  unfold Machine.atRdStatus
  split
  · exact K.unstall h
  · exact K.toTally (K.log _ _ (K.drawn (statusAnswer_drawn s) h))

theorem atRd {s : State} (h : P s) : P (atRd s) := by
  unfold Machine.atRd
  split
  · exact K.unstall h
  · have hr : P (callRead (curRow s).len.toNat s).2 := K.log _ _ (K.drawn (readAnswer_drawn s) h)
    simp only
    split
    · next hok =>
      refine K.atStore ?_ (K.enter _ _ (K.carry _ _ rfl hr))
      simp only [readOk, enter_flight] at *
      simp_all
    · exact K.atRdStatus (K.enter _ _ hr)

theorem atWrClose {s : State} (h : P s) : P (atWrClose s) := by
  unfold Machine.atWrClose
  split
  · exact K.unstall h
  · split
    · exact K.atRdStatus (K.enter _ _ (K.log _ _ h))
    · split
      · exact K.toTally (K.log _ _ h)
      · exact K.atRd (K.enter _ _ (K.log _ _ h))

theorem callWriteByte {b : Byte} {s : State} (h : P s) : P (callWriteByte b s) := by
  have d := countAnswer_drawn s
  exact K.log _ _ (K.carry _ _ (by rw [d.2.1]) (K.drawn d h))

theorem callOpenWrite {s : State} (h : P s) : P (callOpenWrite s) := by
  let e : Env := { s.env with opens := s.env.opens + 1 }
  let f : Flight := { s.flight with handle := { opening := s.env.opens } }
  have h1 : P { s with env := e } := K.world s e rfl rfl rfl rfl h
  have h2 : P { s with env := e, flight := f } := K.carry { s with env := e } f rfl h1
  exact K.log _ _ h2

theorem atWrByte {s : State} (h : P s) : P (atWrByte s) := by
  unfold Machine.atWrByte
  split
  · exact K.unstall h
  · exact K.atWrClose (K.enter _ _ (K.callWriteByte h))

theorem atWrOpen {s : State} (h : P s) : P (atWrOpen s) := by
  unfold Machine.atWrOpen
  split
  · exact K.unstall h
  · split
    · exact K.atWrClose (K.enter _ _ (K.callOpenWrite h))
    · exact K.atWrByte (K.enter _ _ (K.callOpenWrite h))

theorem atSettle {s : State} (h : P s) : P (atSettle s) := by
  unfold Machine.atSettle
  split
  · exact K.unstall h
  · exact K.atWrOpen (K.enter _ _ (K.log _ _ h))

theorem transact {s : State} (h : P s) : P (transact s) := K.atSettle (K.enter _ _ h)

end Kept

end Sys2Proof.Machine
end

