-- ==== Sys2Proof/Laws/Step.lean ====
section
/-! SUPPORT. What one step can do, said once. -/

namespace Sys2Proof.Machine

/-- No instruction raises anything (60_exceptions R180). -/
theorem exec_next (i : Instr) (s : State) : ∃ t, exec i s = .next t := by
  cases i <;> exact ⟨_, rfl⟩

/-- The cases of a step that the reset signal does not pre-empt. -/
inductive StepCase (s t : State) : Prop where
  /-- IDLE, nothing offered. -/
  | rest (hp : s.arch.phase = .idle) (hi : s.env.inbox = []) (ht : t = s)
  /-- A legal request. -/
  | request (w : Word) (i : Instr) (rest : List HostInput) (hp : s.arch.phase = .idle)
      (hi : s.env.inbox = .request w :: rest) (hd : decodeReq16 w = .ok i)
      (ht : exec i (takeInput s) = .next t)
  /-- An illegal request. -/
  | illegal (w : Word) (rest : List HostInput) (hp : s.arch.phase = .idle)
      (hi : s.env.inbox = .request w :: rest) (ht : t = refuseRequest (takeInput s))
  /-- CHECK of a DECODE: the selected decoder. -/
  | selected (i : Instr) (hp : s.arch.phase = .check) (hd : decodeKind3 s.arch.respKind = .ok i)
      (ht : exec i s = .next t)
  /-- CHECK of a DECODE on a reserved kind. -/
  | badKind (hp : s.arch.phase = .check) (ht : t = refuse s)
  /-- TALLY. -/
  | tally (hp : s.arch.phase = .tally) (ht : t = atTally s)
  /-- ACCUM. -/
  | accum (hp : s.arch.phase = .accum) (hk : (curRow s).kind = kindEnergy) (ht : t = atAccum s)
  /-- ACCUM on a row that is not ENERGY. -/
  | notDue (hp : s.arch.phase = .accum) (ht : t = conclude s)
  /-- Any other phase goes on. -/
  | resume (hp : s.arch.phase ≠ .idle) (ht : t = resume s)

/-- A step whose fetched word is what the phase says. -/
theorem runFetched_cases {s t : State} (hr : resetDue s = false)
    (h : runFetched s = .next t) : StepCase s t := by
  unfold runFetched fetch at h
  cases hp : s.arch.phase <;> simp only [hp] at h
  · cases hi : s.env.inbox with
    | nil => simp only [hi] at h; cases h; exact .rest hp hi rfl
    | cons x rest =>
      cases x with
      | rst => simp [resetDue, hp, hi] at hr
      | request w =>
        simp only [hi, decode] at h
        cases hd : decodeReq16 w with
        | ok i =>
          simp only [hd, runInstr, accept, hp, if_true, continueFrom] at h
          refine .request w i rest hp hi hd ?_
          obtain ⟨u, hu⟩ := exec_next i (takeInput s)
          rw [hu] at h ⊢
          exact h
        | error e =>
          simp only [hd, reject, accept, hp, if_true] at h
          cases h
          exact .illegal w rest hp hi rfl
  · split at h
    · next hw => split at hw <;> cases hw
    · cases h; exact .resume (by simp [hp]) rfl
    · next w hw =>
      split at hw
      · cases hw
        simp only [decode] at h
        cases hd : decodeKind3 s.arch.respKind with
        | ok i =>
          simp only [hd, runInstr, accept, hp, continueFrom] at h
          refine .selected i hp hd ?_
          obtain ⟨u, hu⟩ := exec_next i s
          simp only [reduceCtorEq, if_false] at h
          rw [hu] at h ⊢
          exact h
        | error e =>
          simp only [hd, reject, accept, hp] at h
          cases h
          exact .badKind hp rfl
      · cases hw
  case tally =>
    cases hf : followsTable s.cfg.statusMap s.flight.code with
    | true =>
      simp only [hf, if_true, decode, runInstr, accept, hp, reduceCtorEq, if_false, continueFrom,
        exec_decodeSt8 hf] at h
      cases h
      exact .tally hp rfl
    | false =>
      simp only [hf, Bool.false_eq_true, if_false, resume, hp] at h
      cases h
      exact .tally hp rfl
  case accum =>
    simp only [decode] at h
    cases hd : decodeCt16 (curRow s).pack with
    | ok i =>
      obtain ⟨hk, rfl⟩ := decodeCt16_cases hd
      simp only [hd, runInstr, accept, hp, reduceCtorEq, if_false, continueFrom] at h
      rw [Laws.unpack_pack] at hk
      cases h
      exact .accum hp hk rfl
    | error e =>
      simp only [hd, reject, accept, hp, reduceCtorEq, if_false] at h
      cases h
      exact .notDue hp rfl
  all_goals (cases h; exact .resume (by simp [hp]) rfl)

/-- A request at the head of the inbox is before any reset signal in IDLE (log 5). -/
theorem resetDue_of_request {s : State} {w : Word} {rest : List HostInput} (hp : s.arch.phase = .idle)
    (hi : s.env.inbox = .request w :: rest) : resetDue s = false := by
  simp [resetDue, hp, hi]

/-- While an operation is in progress any reset signal offered acts (70 R200). -/
theorem resetDue_of_busy {s : State} (hp : s.arch.phase ≠ .idle) :
    resetDue s = true ↔ .rst ∈ s.env.inbox := by
  simp [resetDue, hp]

/-- Taking a reset signal takes no request (93 U15). -/
theorem filter_takeReset (s : State) :
    (takeReset s).env.inbox.filter (fun x => x != .rst) = s.env.inbox.filter (fun x => x != .rst) := by
  rw [takeReset_env]
  induction s.env.inbox with
  | nil => rfl
  | cons x rest ih =>
    by_cases h : x = .rst
    · subst h; simp
    · rw [List.erase_cons_tail (by simpa using h), List.filter_cons, List.filter_cons, ih]

/-- All that a step can be: the reset signal (70 R200), or one of the cases of the phase. -/
theorem step_cases {s t : State} (h : step s = .next t) :
    (resetDue s = true ∧ t = resetSignal (takeReset s)) ∨ (resetDue s = false ∧ StepCase s t) := by
  unfold step at h
  split at h
  · next hr => cases h; exact .inl ⟨hr, rfl⟩
  · next hr => exact .inr ⟨by simpa using hr, runFetched_cases (by simpa using hr) h⟩

/-- A step of a state that waits at a call resumes its operation (20_memory R69). -/
theorem step_of_waiting {s : State} (w : Waiting s) : step s = .next (resume s) := by
  obtain ⟨hr, hi, hd⟩ := w
  rw [step, hd]
  cases hp : s.arch.phase <;> simp_all [restsIn, runFetched, fetch]

end Sys2Proof.Machine
end

