-- ==== Sys2Proof/Laws/Outcome.lean ====
section
/-! SUPPORT. How a transaction comes out, said once for every phase it can stand in: it waits at a call, or it
reaches its tally with a code and a result. -/

namespace Sys2Proof.Machine

/-- From `s` the transaction went on to a call that has not returned: it rests in that call's phase, one
stall is used up, nothing is answered, and of the architectural state only `PHASE` moved. -/
structure Waits (s u : State) : Prop where
  rests : restsIn u.arch.phase = true
  busy : u.arch.phase ≠ .idle
  arch : u.arch = { s.arch with phase := u.arch.phase }
  op : u.flight.op = s.flight.op
  cfg : u.cfg = s.cfg
  inbox : u.env.inbox = s.env.inbox
  responses : u.env.responses = s.env.responses
  stalls : stallsToCome u + 1 = stallsToCome s

/-- What stands before the tally of a transaction that began in `s`, with its code and result: on a failure
the architectural state as it was but for `PHASE`, on a success a response of 1 to 17 bytes stored, which no
probe comes to by itself. -/
structure Reaches (s : State) (code : Byte) (r : Result) (v : State) : Prop where
  op : v.flight.op = s.flight.op
  cfg : v.cfg = s.cfg
  inbox : v.env.inbox = s.env.inbox
  responses : v.env.responses = s.env.responses
  stalls : stallsToCome v = stallsToCome s
  arch : (r = .failure ∧ v.arch = { s.arch with phase := v.arch.phase }
      ∧ (s.flight.op ≠ .probe → code ≠ stSuccess))
    ∨ (r = .success ∧ code = stSuccess ∧ (s.flight.op = .probe → s.arch.phase = .rd)
        ∧ ∃ bytes, readOk bytes stSuccess = true
          ∧ v.arch = storeResponse (curRow s) s.arch.curIdx bytes { s.arch with phase := v.arch.phase })

/-- The two ways. -/
def Comes (s u : State) : Prop :=
  Waits s u ∨ ∃ code r v, Reaches s code r v ∧ u = toTally code r v

/-- What a phase does before the next one moves nothing that `Comes` speaks of. -/
structure Passes (s t : State) : Prop where
  arch : t.arch = { s.arch with phase := t.arch.phase }
  op : t.flight.op = s.flight.op
  cfg : t.cfg = s.cfg
  inbox : t.env.inbox = s.env.inbox
  responses : t.env.responses = s.env.responses
  stalls : stallsToCome t = stallsToCome s

theorem Passes.row {s t : State} (p : Passes s t) : curRow t = curRow s := by
  simp only [curRow, p.cfg]
  rw [p.arch]

theorem Comes.after {s t u : State} (p : Passes s t) (hp : t.flight.op = .probe → t.arch.phase ≠ .rd)
    (h : Comes t u) : Comes s u := by
  rcases h with w | ⟨code, r, v, c, rfl⟩
  · refine .inl ⟨w.rests, w.busy, ?_, w.op.trans p.op, w.cfg.trans p.cfg, w.inbox.trans p.inbox,
      w.responses.trans p.responses, by rw [w.stalls, p.stalls]⟩
    rw [w.arch, p.arch]
  · refine .inr ⟨code, r, v, ⟨c.op.trans p.op, c.cfg.trans p.cfg, c.inbox.trans p.inbox,
      c.responses.trans p.responses, c.stalls.trans p.stalls, ?_⟩, rfl⟩
    rcases c.arch with ⟨h1, h2, h3⟩ | ⟨h1, h2, h3, bytes, h4, h5⟩
    · refine .inl ⟨h1, ?_, fun ho => h3 (by rwa [p.op])⟩
      rw [h2, p.arch]
    · refine .inr ⟨h1, h2, fun ho => absurd (h3 (p.op.trans ho)) (hp (p.op.trans ho)), bytes, h4, ?_⟩
      rw [p.row, p.arch] at h5
      exact h5

/-- A stalled call waits. -/
theorem comes_stalled {s : State} (hr : restsIn s.arch.phase = true) (hb : s.arch.phase ≠ .idle)
    (h : stalled s = true) : Comes s (unstall s) := by
  obtain ⟨rest, hs⟩ := stalled_eq_true h
  refine .inl ⟨hr, hb, rfl, rfl, rfl, rfl, rfl, ?_⟩
  simp only [stallsToCome, unstall_env, hs, List.tail_cons]
  exact (List.countP_cons_of_pos rfl).symm

/-- Drawing an answer passes. -/
theorem Drawn.passes {s t : State} (d : Drawn s t) : Passes s t := by
  refine ⟨by rw [d.1], by rw [d.2.1], d.2.2.1, ?_, ?_, d.stalls⟩ <;> rw [d.env_eq]

theorem Passes.trans {s t u : State} (p : Passes s t) (q : Passes t u) : Passes s u :=
  ⟨by rw [q.arch, p.arch], q.op.trans p.op, q.cfg.trans p.cfg, q.inbox.trans p.inbox,
    q.responses.trans p.responses, q.stalls.trans p.stalls⟩

theorem passes_enter (p : Phase) (s : State) : Passes s (enter p s) := ⟨rfl, rfl, rfl, rfl, rfl, rfl⟩

theorem passes_log (e : Event) (s : State) : Passes s (logEvent e s) := ⟨rfl, rfl, rfl, rfl, rfl, rfl⟩

theorem passes_callRead (n : Nat) (s : State) : Passes s (callRead n s).2 :=
  (readAnswer_drawn s).passes.trans (passes_log _ _)

theorem passes_callLastStatus (s : State) : Passes s (callLastStatus s).2 :=
  (statusAnswer_drawn s).passes.trans (passes_log _ _)

theorem passes_callWriteByte (b : Byte) (s : State) : Passes s (callWriteByte b s) := by
  have d := (countAnswer_drawn s).passes
  exact ⟨d.arch, rfl, d.cfg, d.inbox, d.responses, d.stalls⟩

theorem passes_callOpenWrite (s : State) : Passes s (callOpenWrite s) := ⟨rfl, rfl, rfl, rfl, rfl, rfl⟩

theorem failureCode_ne (c : Byte) : failureCode c ≠ stSuccess := by
  unfold failureCode
  split
  · decide
  · assumption

theorem comes_atRdStatus {s : State} (h : s.arch.phase = .rdStatus) : Comes s (atRdStatus s) := by
  cases hs : stalled s with
  | true =>
    have := comes_stalled (by simp [h, restsIn]) (by simp [h]) hs
    simpa [atRdStatus, hs] using this
  | false =>
    rw [atRdStatus_of_not_stalled hs]
    have p := passes_callLastStatus s
    refine .inr ⟨_, _, _, ⟨p.op, p.cfg, p.inbox, p.responses, p.stalls, .inl ⟨rfl, p.arch, ?_⟩⟩, rfl⟩
    intro ho
    rw [if_neg ho]
    exact failureCode_ne _

/-- A response stored after the read comes to the success tally. -/
theorem comes_atStore {s t : State} (p : Passes s t) (h : s.arch.phase = .rd)
    (hb : readOk t.flight.bytes stSuccess = true) : Comes s (atStore t) := by
  refine .inr ⟨stSuccess, .success,
    { t with arch := storeResponse (curRow t) t.arch.curIdx t.flight.bytes t.arch },
    ⟨p.op, p.cfg, p.inbox, p.responses, p.stalls, .inr ⟨rfl, rfl, fun _ => h, t.flight.bytes, hb, ?_⟩⟩, rfl⟩
  have hp : (storeResponse (curRow t) t.arch.curIdx t.flight.bytes t.arch).phase = t.arch.phase := rfl
  have hi : t.arch.curIdx = s.arch.curIdx := by rw [p.arch]
  simp only [hp]
  rw [p.row, hi, ← p.arch]

theorem comes_atRd {s : State} (h : s.arch.phase = .rd) : Comes s (atRd s) := by
  cases hs : stalled s with
  | true =>
    have := comes_stalled (by simp [h, restsIn]) (by simp [h]) hs
    simpa [atRd, hs] using this
  | false =>
    rw [atRd_of_not_stalled hs]
    have p := passes_callRead (curRow s).len.toNat s
    have ps : Passes s (enter .store { (callRead (curRow s).len.toNat s).2 with
        flight := { (callRead (curRow s).len.toNat s).2.flight with
          bytes := (callRead (curRow s).len.toNat s).1.1 } }) :=
      ⟨by rw [enter_arch, p.arch], p.op, p.cfg, p.inbox, p.responses, p.stalls⟩
    simp only
    split
    · next hok =>
      have hb : readOk (callRead (curRow s).len.toNat s).1.1 stSuccess = true := by
        simp only [readOk, Bool.and_eq_true, decide_eq_true_eq] at hok ⊢
        exact ⟨⟨trivial, hok.1.2⟩, hok.2⟩
      exact comes_atStore ps h hb
    · exact Comes.after (p.trans (passes_enter _ _)) (by simp) (comes_atRdStatus rfl)

theorem comes_atWrClose {s : State} (h : s.arch.phase = .wrClose) : Comes s (atWrClose s) := by
  cases hs : stalled s with
  | true =>
    have := comes_stalled (by simp [h, restsIn]) (by simp [h]) hs
    simpa [atWrClose, hs] using this
  | false =>
    rw [atWrClose_of_not_stalled hs]
    split
    · exact Comes.after ((passes_log _ _).trans (passes_enter _ _)) (by simp) (comes_atRdStatus rfl)
    · next ho =>
      split
      · exact .inr ⟨stWrIncomplete, .failure, callCloseWrite true s,
          ⟨rfl, rfl, rfl, rfl, rfl, .inl ⟨rfl, rfl, fun _ => by decide⟩⟩, rfl⟩
      · exact Comes.after ((passes_log _ _).trans (passes_enter _ _)) (fun hp => absurd hp ho) (comes_atRd rfl)

theorem comes_atWrByte {s : State} (h : s.arch.phase = .wrByte) : Comes s (atWrByte s) := by
  cases hs : stalled s with
  | true =>
    have := comes_stalled (by simp [h, restsIn]) (by simp [h]) hs
    simpa [atWrByte, hs] using this
  | false =>
    rw [atWrByte_of_not_stalled hs]
    exact Comes.after ((passes_callWriteByte _ _).trans (passes_enter _ _)) (by simp) (comes_atWrClose rfl)

theorem comes_atWrOpen {s : State} (h : s.arch.phase = .wrOpen) : Comes s (atWrOpen s) := by
  cases hs : stalled s with
  | true =>
    have := comes_stalled (by simp [h, restsIn]) (by simp [h]) hs
    simpa [atWrOpen, hs] using this
  | false =>
    rw [atWrOpen_of_not_stalled hs]
    split
    · exact Comes.after ((passes_callOpenWrite _).trans (passes_enter _ _)) (by simp) (comes_atWrClose rfl)
    · exact Comes.after ((passes_callOpenWrite _).trans (passes_enter _ _)) (by simp) (comes_atWrByte rfl)

theorem comes_atSettle {s : State} (h : s.arch.phase = .settle) : Comes s (atSettle s) := by
  cases hs : stalled s with
  | true =>
    have := comes_stalled (by simp [h, restsIn]) (by simp [h]) hs
    simpa [atSettle, hs] using this
  | false =>
    rw [atSettle_of_not_stalled hs]
    exact Comes.after ((passes_log _ _).trans (passes_enter _ _)) (by simp) (comes_atWrOpen rfl)

/-- Every transaction waits or reaches its tally. -/
theorem comes_transact (s : State) : Comes s (transact s) :=
  Comes.after (passes_enter _ _) (by simp) (comes_atSettle rfl)

/-- An operation that waited, resumed, waits on or reaches its tally. -/
theorem comes_resume {s : State} (w : Waiting s) : Comes s (resume s) := by
  obtain ⟨hr, hi, -⟩ := w
  unfold resume
  cases hp : s.arch.phase <;> simp_all [restsIn]
  · exact comes_atSettle hp
  · exact comes_atWrOpen hp
  · exact comes_atWrByte hp
  · exact comes_atWrClose hp
  · exact comes_atRd hp
  · exact comes_atRdStatus hp

/-! ## How CMD and FETCHEXP leave CHECK -/

/-- From CHECK a CMD is refused, is absent, or transacts (40_transaction R100 to R102). -/
theorem checkCmd_cases (s : State) :
    (s.cfg.nCmds ≤ s.arch.curIdx.toNat ∧ checkCmd s = finish (resultOnly .refused) s)
    ∨ (s.arch.curIdx.toNat < s.cfg.nCmds ∧ s.arch.existsFlag = false
        ∧ checkCmd s = finish (resultOnly .absent) s)
    ∨ (s.arch.curIdx.toNat < s.cfg.nCmds ∧ s.arch.existsFlag = true ∧ checkCmd s = transact s) := by
  by_cases h : s.cfg.nCmds ≤ s.arch.curIdx.toNat
  · exact .inl ⟨h, by simp [checkCmd, h, refuse]⟩
  · cases he : s.arch.existsFlag <;> simp [checkCmd, h, he, Nat.lt_of_not_le h]

/-- A CMD is refused with `CUR_IDX` as it was (43_management R175; log 25), or latches its index and is
absent or transacts (40_transaction R100 to R102). -/
theorem execCmd_cases {i : BitVec 8} {s t : State} (h : execCmd i s = .next t) :
    (s.cfg.nCmds ≤ i.toNat ∧ t = finish (resultOnly .refused) (start .cmd s))
    ∨ (i.toNat < s.cfg.nCmds ∧ s.arch.existsFlag = false ∧ t = finish (resultOnly .absent)
        (start .cmd { s with arch := { s.arch with curIdx := i } }))
    ∨ (i.toNat < s.cfg.nCmds ∧ s.arch.existsFlag = true
        ∧ t = transact (start .cmd { s with arch := { s.arch with curIdx := i } })) := by
  cases h
  split
  · next hi => exact .inl ⟨hi, rfl⟩
  · next hi =>
    rcases checkCmd_cases (start .cmd { s with arch := { s.arch with curIdx := i } }) with
      ⟨hn, -⟩ | ⟨hn, he, e⟩ | ⟨hn, he, e⟩
    · exact absurd hn hi
    · exact .inr (.inl ⟨hn, he, e⟩)
    · exact .inr (.inr ⟨hn, he, e⟩)

/-- A FETCHEXP is refused, is absent and clears `EXP_VALID`, or transacts on the mode row
(43_management R173; log 17). -/
theorem beginFetchexp_cases (s : State) :
    ((s.cfg.idxVmode = none ∨ ∃ i, s.cfg.idxVmode = some i ∧ s.cfg.nCmds ≤ i.toNat)
        ∧ beginFetchexp s = finish (resultOnly .refused) s)
    ∨ ∃ i, s.cfg.idxVmode = some i ∧ i.toNat < s.cfg.nCmds
        ∧ ((s.arch.existsFlag = false ∧ beginFetchexp s =
              finish (resultOnly .absent) { s with arch := { s.arch with curIdx := i, expValid := false } })
          ∨ (s.arch.existsFlag = true
            ∧ beginFetchexp s = transact { s with arch := { s.arch with curIdx := i } })) := by
  cases hi : s.cfg.idxVmode with
  | none => exact .inl ⟨.inl rfl, by simp [beginFetchexp, hi, refuse]⟩
  | some i =>
    by_cases h : s.cfg.nCmds ≤ i.toNat
    · exact .inl ⟨.inr ⟨i, rfl, h⟩, by simp [beginFetchexp, hi, h, refuse]⟩
    · refine .inr ⟨i, rfl, Nat.lt_of_not_le h, ?_⟩
      cases he : s.arch.existsFlag <;> simp [beginFetchexp, hi, h, checkFetchexp, he]

/-! ## What the tally and the end of an operation do -/

theorem latchExponent_env (s : State) : (latchExponent s).env = s.env := by
  unfold latchExponent; split <;> rfl

theorem latchProbe_env (s : State) : (latchProbe s).env = s.env := by
  unfold latchProbe; split <;> rfl

theorem latchExponent_cnt (s : State) : (latchExponent s).arch.cnt = s.arch.cnt := by
  unfold latchExponent; split <;> rfl

theorem latchProbe_cnt (s : State) : (latchProbe s).arch.cnt = s.arch.cnt := by
  unfold latchProbe; split <;> rfl

theorem updateEnergy_cnt (s : State) : (updateEnergy s).arch.cnt = s.arch.cnt := by
  rw [updateEnergy_arch, energyUpdate]
  split <;> rfl

/-- The end of an operation answers one record: of CMD and FETCHEXP their result. -/
theorem conclude_responses (s : State) : ∃ r, (conclude s).env.responses = s.env.responses ++ [r]
    ∧ (s.flight.op ≠ .probe → r = resultOnly s.flight.result) := by
  unfold conclude
  cases h : s.flight.op <;> simp [latchExponent_env, latchProbe_env]

/-- The end of an operation is in IDLE. -/
theorem conclude_phase (s : State) : (conclude s).arch.phase = .idle := by
  unfold conclude
  cases s.flight.op <;> rfl

theorem conclude_cnt (s : State) : (conclude s).arch.cnt = s.arch.cnt := by
  unfold conclude
  cases s.flight.op <;> simp [latchExponent_cnt, latchProbe_cnt]

/-- Tally and end answer one record: of CMD and FETCHEXP the result. -/
theorem toTally_responses (code : Byte) (r : Result) (s : State) :
    ∃ x, (toTally code r s).env.responses = s.env.responses ++ [x]
      ∧ (s.flight.op ≠ .probe → x = resultOnly r) := by
  unfold toTally atTally afterTally
  split <;> exact conclude_responses _

theorem toTally_phase (code : Byte) (r : Result) (s : State) : (toTally code r s).arch.phase = .idle := by
  unfold toTally atTally afterTally
  split <;> exact conclude_phase _

/-- One tally, and no other counting. -/
theorem toTally_cnt (code : Byte) (r : Result) (s : State) :
    (toTally code r s).arch.cnt = (tally code s).arch.cnt := by
  unfold toTally atTally afterTally
  split
  · exact (conclude_cnt _).trans (updateEnergy_cnt _)
  · exact conclude_cnt _

/-- What a failure's tally and end leave: `LAST_STATUS`, the counters, `EXISTS`, and of a FETCHEXP
`EXP_VALID`. -/
theorem toTally_failure (code : Byte) (s : State) (hp : s.flight.op ≠ .probe) :
    (toTally code .failure s).arch = { s.arch with
      lastStatus := code
      cnt := (tally code s).arch.cnt
      existsFlag := (tally code s).arch.existsFlag
      expValid := if s.flight.op = .fetchexp then false else s.arch.expValid
      phase := .idle } := by
  have hd : energyDue (tally code (enter .tally { s with
      flight := { s.flight with code := code, result := .failure } })) = false := by
    simp [energyDue, tally]
  simp only [toTally, atTally, afterTally]
  rw [enter_flight, hd]
  simp only [conclude, tally, Bool.false_eq_true, if_false]
  cases h : s.flight.op <;> simp [latchExponent]
  exact (hp h).elim

/-- A failure's tally and end change no data, of a probe either (60_exceptions R188). -/
theorem toTally_failure_sameData (code : Byte) (s : State) : SameData s (toTally code .failure s) := by
  by_cases hp : s.flight.op = .probe
  · have hd : energyDue (tally code (enter .tally { s with
        flight := { s.flight with code := code, result := .failure } })) = false := by
      simp [energyDue, tally]
    simp only [SameData, toTally, atTally, afterTally]
    rw [enter_flight, hd]
    simp only [conclude, tally, Bool.false_eq_true, if_false, tallyAs_flight, enter_flight, hp, latchProbe]
    split <;> rfl
  · rw [SameData, toTally_failure code s hp]

end Sys2Proof.Machine
end

