-- ==== Sys2Proof/Tests/Slice0.lean ====
section
/-! SUPPORT. Tests. Expected values come from the spec: words from the encodings of 30_encoding and
spec/opcode_table.json, results from the vectors X, V and P of 95_test_vectors. After them, one witness per
obligation that has hypotheses: a state and operands that meet all of them. -/

namespace Sys2Proof.Tests

open Sys2Proof Sys2Proof.Machine

/-! ## TEST_TABLE (95_test_vectors) and small states on it -/

/-- TEST_TABLE, `IDX_VMODE = 0`, `CEILING = 32768`; any positive `T_SETTLE`. -/
def table : Config :=
  { table :=
      [{ cmd := 0x20, len := 1, kind := 0 }, { cmd := 0x79, len := 2, kind := 1 },
       { cmd := 0x88, len := 2, kind := 2 }, { cmd := 0x8B, len := 2, kind := 3 },
       { cmd := 0x86, len := 7, kind := 5 }, { cmd := 0x99, len := 17, kind := 4 },
       { cmd := 0x8D, len := 2, kind := 2 }]
    idxVmode := some 0, ceiling := 32768, tSettle := 1 }

/-- TEST_TABLE with one row in place of all, no mode command. -/
def oneRow (cmd : Byte) (len : BitVec 5) (kind : BitVec 3) : Config :=
  { table with table := [{ cmd, len, kind }], idxVmode := none }

/-- The reset state on TEST_TABLE. -/
def base : State := { State.reset with cfg := table }

/-- `ADDR = 0x58`, `EXISTS = 1`: the start of the CMD vectors. -/
def device : State := { base with arch := { base.arch with addr := 0x58, existsFlag := true } }

/-- The transport will answer `answers`. -/
def scripted (answers : List Answer) (s : State) : State :=
  { s with env := { s.env with script := answers } }

/-- The host offers `words`. -/
def offered (words : List Word) (s : State) : State :=
  { s with env := { s.env with inbox := words.map .request } }

/-- The next state of an outcome; `s` where there is none. -/
def nextOf (s : State) (o : Host.Outcome State Fault Refusal) : State :=
  match o with
  | .next t => t
  | .fault _ => s
  | .refused _ => s

/-- One instruction. -/
def ran (i : Instr) (s : State) : State := nextOf s (exec i s)

/-- One step. -/
def stepped (s : State) : State := nextOf s (step s)

/-- The last record answered. -/
def lastRecord (s : State) : Option Response := s.env.responses.getLast?

/-- The last result answered. -/
def lastResult (s : State) : Option Result := (lastRecord s).map Response.result

/-- A stored response. -/
def received (kind : BitVec 3) (len : BitVec 5) (bytes : List Byte) : State :=
  { device with arch := { device.arch with
      raw := storeBytes device.arch.raw 0 bytes, respValid := true, respLen := len, respKind := kind } }

/-- `n` filler bytes 0xFF. -/
def filler (n : Nat) : List Byte := List.replicate n 0xFF#8

/-! ## WellFormed: an ill-formed term for each check, refused -/

theorem test_table_wf : table.wf = true := by decide
theorem test_wf_reserved_kind_6 : (oneRow 0x20 1 6).wf = false := by decide
theorem test_wf_reserved_kind_7 : (oneRow 0x20 1 7).wf = false := by decide
theorem test_wf_len_0 : (oneRow 0x20 0 0).wf = false := by decide
theorem test_wf_len_18 : (oneRow 0x99 18 4).wf = false := by decide
theorem test_wf_byte_len : (oneRow 0x20 2 0).wf = false := by decide
theorem test_wf_word_len : (oneRow 0x79 1 1).wf = false := by decide
theorem test_wf_linear11_len : (oneRow 0x88 3 2).wf = false := by decide
theorem test_wf_vlinear_len :
    { table with table := [⟨0x20, 1, 0⟩, ⟨0x8B, 1, 3⟩] : Config }.wf = false := by decide
theorem test_wf_ascii_len_2 : (oneRow 0x99 2 4).wf = false := by decide
theorem test_wf_ascii_len_3 : (oneRow 0x99 3 4).wf = true := by decide
theorem test_wf_energy_len : (oneRow 0x86 6 5).wf = false := by decide
theorem test_wf_vmode_outside : { table with idxVmode := some 7 : Config }.wf = false := by decide
theorem test_wf_vmode_not_byte : { table with idxVmode := some 1 : Config }.wf = false := by decide
theorem test_wf_vlinear_without_vmode : { table with idxVmode := none : Config }.wf = false := by decide
theorem test_wf_no_rows : { table with table := [], idxVmode := none : Config }.wf = false := by decide
theorem test_wf_257_rows :
    { table with table := List.replicate 257 ⟨0x20, 1, 0⟩ : Config }.wf = false := by decide +kernel
theorem test_wf_256_rows :
    { table with table := List.replicate 256 ⟨0x20, 1, 0⟩ : Config }.wf = true := by decide +kernel
theorem test_wf_ceiling_0 : { table with ceiling := 0 : Config }.wf = false := by decide
theorem test_wf_ceiling_65536 : { table with ceiling := 65536 : Config }.wf = true := by decide
theorem test_wf_ceiling_65537 : { table with ceiling := 65537 : Config }.wf = false := by decide
theorem test_wf_settle_0 : { table with tSettle := 0 : Config }.wf = false := by decide
theorem test_wf_energy_row_of_6 : (Instr.energyUpdate 6 0x86).wf = false := by decide
theorem test_wf_energy_row_of_7 : (Instr.energyUpdate 7 0x86).wf = true := by decide

/-! ## Decode: a word of every row, written out from its encoding -/

/-- op 15:12, zero 11:8, arg 7:0 (R70, R71). -/
theorem test_decode_requests :
    decode (.req16 0b0001_0000_0101_1000) = .ok (.setaddr 0x58)
      ∧ decode (.req16 0b0001_0000_0111_1111) = .ok (.setaddr 0x7F)
      ∧ decode (.req16 0b0010_0000_0000_0000) = .ok .probe
      ∧ decode (.req16 0b0011_0000_0000_0110) = .ok (.cmd 6)
      ∧ decode (.req16 0b0011_0000_1111_1111) = .ok (.cmd 255)
      ∧ decode (.req16 0b0100_0000_0000_0000) = .ok .fetchexp
      ∧ decode (.req16 0b0101_0000_0000_0000) = .ok .decode
      ∧ decode (.req16 0b1111_0000_0000_0000) = .ok .reset := by decide

/-- The illegal words of the table of 95, part 2, section 1. -/
theorem test_decode_illegal_requests :
    ([0x1080, 0x2001, 0x3103, 0x5010, 0xF0FF, 0x0000, 0x6000, 0x7000, 0x8000, 0x9000, 0xA000, 0xB000,
      0xC000, 0xD000, 0xE000, 0xFFFF] : List Word).all (fun w => !(decodeReq16 w).isOk) = true := by rfl

/-- Kind codes (R75); 6 and 7 are reserved. -/
theorem test_decode_kinds :
    decode (.kind3 0b000) = .ok .decByte ∧ decode (.kind3 0b001) = .ok .decWord
      ∧ decode (.kind3 0b010) = .ok .decLinear11 ∧ decode (.kind3 0b011) = .ok .decVlinear
      ∧ decode (.kind3 0b100) = .ok .decAscii ∧ decode (.kind3 0b101) = .ok .decEnergy
      ∧ decode (.kind3 0b110) = .error .reservedKind ∧ decode (.kind3 0b111) = .error .reservedKind := by
  decide

/-- kind 15:13, len 12:8, cmd 7:0 (R74); READ_EIN and VOUT_MODE of TEST_TABLE. -/
theorem test_decode_rows :
    decode (.ct16 0b101_00111_10000110) = .ok (.energyUpdate 7 0x86)
      ∧ decode (.ct16 0b000_00001_00100000) = .error .notEnergyRow := by decide

/-- The packed rows of TEST_TABLE. -/
theorem test_pack_rows :
    table.table.map CommandSpec.pack = [0x0120, 0x2279, 0x4288, 0x628B, 0xA786, 0x9199, 0x428D] := by decide

/-- Status codes (R77), each row of the table at its ends. -/
theorem test_decode_named_codes :
    decodeSt8 0x00 = .tallySuccess ∧ decodeSt8 0x01 = .tallyOversize ∧ decodeSt8 0x02 = .tallyAddrNack
      ∧ decodeSt8 0x03 = .tallyDataNack ∧ decodeSt8 0x04 = .tallyTimeout ∧ decodeSt8 0x05 = .tallyArbLost
      ∧ decodeSt8 0x06 = .tallyBufOvf ∧ decodeSt8 0x07 = .tallyWrIncomplete
      ∧ decodeSt8 0x08 = .tallyMisuse := by decide

theorem test_decode_unknown_codes :
    decodeSt8 0x09 = .tallyUnknown09 ∧ decodeSt8 0x0A = .tallyUnknown0A 0 ∧ decodeSt8 0x0B = .tallyUnknown0A 1
      ∧ decodeSt8 0x0C = .tallyUnknown0C 0 ∧ decodeSt8 0x0F = .tallyUnknown0C 3
      ∧ decodeSt8 0x10 = .tallyUnknown10 0 ∧ decodeSt8 0x1F = .tallyUnknown10 15
      ∧ decodeSt8 0x20 = .tallyUnknown20 0 ∧ decodeSt8 0x3F = .tallyUnknown20 31
      ∧ decodeSt8 0x40 = .tallyUnknown40 0 ∧ decodeSt8 0x7F = .tallyUnknown40 63
      ∧ decodeSt8 0x80 = .tallyUnknown80 0 ∧ decodeSt8 0xFF = .tallyUnknown80 127 := by decide

/-- The opcode table's words, in the widths it gives. -/
theorem test_table_words :
    decodeTableWord 16 0x1000 = some (.setaddr 0) ∧ decodeTableWord 16 0x3000 = some (.cmd 0)
      ∧ decodeTableWord 16 0xA000 = some (.energyUpdate 0 0) ∧ decodeTableWord 3 5 = some .decEnergy
      ∧ decodeTableWord 8 0x80 = some (.tallyUnknown80 0) := by decide

/-- A fetched word is run as the first instruction after reset: SETADDR 0x58 writes ADDR, the tally of 0x05
LAST_STATUS. -/
theorem test_fetch_word :
    (stepped (State.reset.withFetchWord 16 0x1058)).arch.addr = 0x58
      ∧ (stepped (State.reset.withFetchWord 8 0x05)).arch.lastStatus = 0x05 := by decide

/-! ## Requests (95, parts 2 and 3) -/

/-- V89. -/
theorem test_setaddr :
    let t := ran (.setaddr 0x5A) (received 0 1 [0x17])
    t.arch.addr = 0x5A ∧ t.arch.existsFlag = false ∧ t.arch.respValid = false
      ∧ readRaw t.arch.raw 0 = 0x17 ∧ lastResult t = some .success := by decide

/-- V90. -/
theorem test_reset :
    let t := ran .reset (received 4 17 (filler 17))
    t.arch.addr = 0 ∧ t.arch.existsFlag = false ∧ readRaw t.arch.raw 16 = 0 ∧ t.arch.respLen = 0
      ∧ lastResult t = some .success := by decide

/-- V70: a successful probe. -/
theorem test_probe_success :
    let t := ran .probe (scripted [.ls 0] { base with arch := { base.arch with addr := 0x58 } })
    lastResult t = some .success ∧ t.arch.existsFlag = true ∧ t.arch.cnt.totalOk = 1
      ∧ t.env.history = [.settle 1, .openWrite 0x58 ⟨0⟩, .closeWrite ⟨0⟩ true, .lastStatus 0] := by decide

/-- V74: the existence flag is cleared by the tally before the result is chosen. -/
theorem test_probe_absent :
    let t := ran .probe (scripted [.ls 4] device)
    lastResult t = some .absent ∧ t.arch.existsFlag = false ∧ t.arch.cnt.timeout = 1 := by decide

/-- V43. -/
theorem test_cmd_success :
    let t := ran (.cmd 2) (scripted [.cw 1, .rd [0xC8, 0xF3] 0] device)
    readRaw t.arch.raw 0 = 0xC8 ∧ readRaw t.arch.raw 1 = 0xF3 ∧ t.arch.respLen = 2 ∧ t.arch.respKind = 2
      ∧ t.arch.respIdx = 2
      ∧ t.env.history = [.settle 1, .openWrite 0x58 ⟨0⟩, .writeByte ⟨0⟩ 0x88 1, .closeWrite ⟨0⟩ false,
          .read 0x58 2 [0xC8, 0xF3] 0] := by decide

/-- V40: a refused index changes no state but PHASE. -/
theorem test_cmd_refused :
    (ran (.cmd 7) device).arch = device.arch ∧ lastResult (ran (.cmd 7) device) = some .refused := ⟨rfl, rfl⟩

/-- V47: a zero-byte read that reports success is a failure tallied as 0xFF. -/
theorem test_cmd_rewritten_code :
    let t := ran (.cmd 2) (scripted [.cw 1, .rd [] 0, .ls 0] device)
    lastResult t = some .failure ∧ t.arch.cnt.unknown = 1 ∧ t.arch.lastStatus = 0xFF
      ∧ t.arch.existsFlag = true := by decide

/-- V83: bits 7 to 5 of the mode byte are ignored. -/
theorem test_fetchexp :
    let t := ran .fetchexp (scripted [.cw 1, .rd [0xF7] 0] device)
    t.arch.vexp.toInt = -9 ∧ t.arch.expValid = true ∧ t.arch.respIdx = 0 := by decide

/-- V86: a failed FETCHEXP. -/
theorem test_fetchexp_failed :
    let t := ran .fetchexp (scripted [.cw 0]
      { device with arch := { device.arch with expValid := true, vexp := -9 } })
    lastResult t = some .failure ∧ t.arch.expValid = false ∧ t.arch.vexp.toInt = -9 := by decide

/-- P1, steps 9 and 10 (X1, V60): the maker's name, then DECODE. -/
theorem test_decode_ascii_name :
    let t := ran (.cmd 5) (scripted
      [.cw 1, .rd ([0x07, 0x41, 0x72, 0x74, 0x65, 0x73, 0x79, 0x6E] ++ filler 9) 0] device)
    t.arch.asciiOk = true ∧ readRaw t.arch.raw 8 = 0
      ∧ ((lastRecord (ran .decode t)).map fun r => (r.slen.toNat, r.out[0], r.out[6], r.out[7]))
          = some (7, 0x41, 0x6E, 0) := by decide

/-- V145. -/
theorem test_decode_refused : lastResult (ran .decode device) = some .refused := by decide

/-! ## Decoders -/

theorem test_dec_byte : (lastRecord (ran .decByte (received 0 1 [0xFF]))).map Response.uval = some 255 := by
  decide

theorem test_dec_word : (lastRecord (ran .decWord (received 1 2 [0x42, 0x28]))).map Response.uval
    = some 0x2842 := by decide

/-- V110 and V119. -/
theorem test_dec_linear11_negative :
    (lastRecord (ran .decLinear11 (received 2 2 [0xFF, 0x87]))).map
        (fun r => (r.mant.toInt, r.exp.toInt, r.f32)) = some (-1, -16, 0xB7800000) := by decide

theorem test_dec_linear11 :
    (lastRecord (ran .decLinear11 (received 2 2 [0x14, 0x30]))).map
        (fun r => (r.mant.toInt, r.exp.toInt, r.f32)) = some (20, 6, 0x44A00000) := by decide

/-- X2a (V120): the source's inputs, the formula's output. -/
theorem test_dec_vlinear :
    let s := received 3 2 [0x14, 0x30]
    let s := { s with arch := { s.arch with vexp := -7, expValid := true } }
    (lastRecord (ran .decVlinear s)).map (fun r => (r.mant.toInt, r.exp.toInt, r.f32))
      = some (12308, -7, 0x42C05000) := by decide

/-- V66. -/
theorem test_dec_ascii :
    let s := received 4 4 [0x03, 0x41, 0x42, 0x43]
    let s := { s with arch := { s.arch with asciiOk := true } }
    (lastRecord (ran .decAscii s)).map (fun r => (r.slen.toNat, r.out[0], r.out[2], r.out[3]))
      = some (3, 0x41, 0x43, 0) := by decide

/-- V144. -/
theorem test_dec_energy :
    (lastRecord (ran .decEnergy (received 5 7 [0x99, 0x34, 0x12, 0x56, 0xBC, 0x9A, 0x78]))).map
        (fun r => (r.eAcc.toNat, r.eRoll.toNat, r.eSamp.toNat)) = some (4660, 86, 7903932) := by decide

/-! ## Energy -/

/-- X4: last copies (100, 255, 1000), then 500, 0, 2000: the wrap is restored. -/
theorem test_energy_rollover :
    let s := received 5 7 [0x06, 0xF4, 0x01, 0x00, 0xD0, 0x07, 0x00]
    let s := { s with arch := { s.arch with eLastAcc := 100, eLastRoll := 255, eLastSamp := 1000 } }
    let t := ran (.energyUpdate 7 0x86) s
    t.arch.avgPower = 4146 / 125 ∧ t.arch.avgValid = true ∧ t.arch.eCount = 8389108
      ∧ avgPowerView t.arch = 0x4204AC08 := by decide +kernel

/-- V156: a short response skips the update. -/
theorem test_energy_short :
    let t := ran (.energyUpdate 7 0x86) (received 5 3 [0x06, 0x01, 0x02])
    t.arch.avgValid = false ∧ t.arch.eAcc = 0 := by decide

/-! ## Tally -/

/-- V20 to V31: LAST_STATUS, the totals, the category that moved and EXISTS, for one code of each rule. -/
theorem test_tally_named :
    ((ran .tallySuccess device).arch.cnt.totalOk = 1 ∧ (ran .tallySuccess device).arch.cnt.totalErr = 0)
      ∧ (ran .tallyOversize device).arch.cnt.oversize = 1 ∧ (ran .tallyAddrNack device).arch.cnt.addrNack = 1
      ∧ (ran .tallyDataNack device).arch.cnt.dataNack = 1 ∧ (ran .tallyTimeout device).arch.cnt.timeout = 1
      ∧ (ran .tallyArbLost device).arch.cnt.arbLost = 1 ∧ (ran .tallyBufOvf device).arch.cnt.bufOvf = 1
      ∧ (ran .tallyWrIncomplete device).arch.cnt.wrIncomplete = 1
      ∧ (ran .tallyMisuse device).arch.cnt.misuse = 1 := by decide

theorem test_tally_exists :
    (∀ i ∈ [Instr.tallySuccess, .tallyOversize, .tallyDataNack, .tallyBufOvf, .tallyWrIncomplete,
        .tallyMisuse, .tallyUnknown09], (ran i device).arch.existsFlag = true)
      ∧ ∀ i ∈ [Instr.tallyAddrNack, .tallyTimeout, .tallyArbLost], (ran i device).arch.existsFlag = false := by
  decide

theorem test_tally_unknown :
    ∀ p ∈ [(Instr.tallyUnknown09, 0x09#8), (.tallyUnknown0A 1, 0x0B), (.tallyUnknown0C 3, 0x0F),
        (.tallyUnknown10 1, 0x11), (.tallyUnknown20 1, 0x21), (.tallyUnknown40 1, 0x41),
        (.tallyUnknown80 127, 0xFF)],
      (ran p.1 device).arch.lastStatus = p.2 ∧ (ran p.1 device).arch.cnt.unknown = 1
        ∧ (ran p.1 device).arch.cnt.totalErr = 1 := by decide

/-- V35: EXISTS is cleared although the category counter is saturated. -/
theorem test_tally_saturated :
    let s := { device with arch := { device.arch with
      cnt := { device.arch.cnt with timeout := 0xFFFFFFFF, totalErr := 5 } } }
    let t := ran .tallyTimeout s
    t.arch.cnt.timeout = 0xFFFFFFFF ∧ t.arch.cnt.totalErr = 6 ∧ t.arch.existsFlag = false := by decide

/-! ## Results and pseudo-operations

R79: 0 Success, 1 Failure, 2 Absent, 3 Refused. -/

theorem test_result_codes :
    [Result.success, .failure, .absent, .refused].map resultCode = [0, 1, 2, 3] := by decide

/-! ## Pseudo-operations (30_encoding R90) -/

/-- `READ 2` on an absent device decodes nothing: one record, Absent. -/
theorem test_host_read_absent : (nextOf base (hostRead 2 base)).env.responses = [resultOnly .absent] := by
  decide

/-! ## Witnesses: the hypotheses of each obligation can be met, each clause at its boundary -/

/-- Waiting in `RD` for an answer, a CMD of row 2 in progress. -/
def reading (answers : List Answer) : State :=
  { device with
    arch := { device.arch with phase := .rd, curIdx := 2 }
    flight := { device.flight with cw := 1 }
    env := { device.env with script := answers, history := [.settle 1, .openWrite 0x58 ⟨0⟩,
      .writeByte ⟨0⟩ 0x88 1, .closeWrite ⟨0⟩ false], opens := 1 } }

theorem witness_IllegalRequestWords :
    (∀ i, decode (.req16 0x0FFF) ≠ .ok i) ∧ (∀ i, decode (.req16 0xE000) ≠ .ok i)
      ∧ (∀ i, decode (.req16 0x2100) ≠ .ok i) ∧ (∀ i, decode (.req16 0x1080) ≠ .ok i)
      ∧ (∀ i, decode (.req16 0xF001) ≠ .ok i) ∧ decode (.req16 0x107F) = .ok (.setaddr 0x7F) := by
  refine ⟨nofun, nofun, nofun, nofun, nofun, rfl⟩

/-- One row for each way to be ill-formed, at its boundary, and its refusal. -/
theorem witness_ConstructionRefusesIllFormedTables_rows :
    ∀ r ∈ ([⟨0x20, 1, 6⟩, ⟨0x20, 0, 0⟩, ⟨0x99, 18, 4⟩, ⟨0x20, 2, 0⟩, ⟨0x79, 1, 1⟩, ⟨0x8B, 3, 3⟩, ⟨0x99, 2, 4⟩,
      ⟨0x86, 8, 5⟩] : List CommandSpec),
      (6 ≤ r.kind.toNat ∨ r.len.toNat = 0 ∨ 17 < r.len.toNat
        ∨ (r.kind.toNat = 0 ∧ r.len.toNat ≠ 1)
        ∨ (1 ≤ r.kind.toNat ∧ r.kind.toNat ≤ 3 ∧ r.len.toNat ≠ 2)
        ∨ (r.kind.toNat = 4 ∧ r.len.toNat < 3)
        ∨ (r.kind.toNat = 5 ∧ r.len.toNat ≠ 7))
      ∧ r ∈ (oneRow r.cmd r.len r.kind).table ∧ (oneRow r.cmd r.len r.kind).wf = false := by decide

theorem witness_ConstructionRefusesIllFormedTables_mode :
    (⟨0x8B, 2, 3⟩ ∈ (oneRow 0x8B 2 3).table ∧ (oneRow 0x8B 2 3).idxVmode = none)
      ∧ { table with idxVmode := some 1 : Config }.table[1]? = some ⟨0x79, 2, 1⟩
      ∧ table.table.length ≤ (7 : BitVec 8).toNat
      ∧ construct { table with idxVmode := some 7 } = .refused .illFormedTable := by
  refine ⟨by decide, by decide, by decide, rfl⟩

/-- TEST_TABLE meets every clause of the last part. -/
theorem witness_ConstructionRefusesIllFormedTables_accepted :
    1 ≤ table.table.length ∧ table.table.length ≤ 256
      ∧ (∀ r ∈ table.table,
          r.kind.toNat ≤ 5 ∧ 1 ≤ r.len.toNat ∧ r.len.toNat ≤ 17
            ∧ (r.kind.toNat = 0 → r.len.toNat = 1)
            ∧ (1 ≤ r.kind.toNat → r.kind.toNat ≤ 3 → r.len.toNat = 2)
            ∧ (r.kind.toNat = 4 → 3 ≤ r.len.toNat)
            ∧ (r.kind.toNat = 5 → r.len.toNat = 7))
      ∧ (∀ i, table.idxVmode = some i → ∃ r, table.table[i.toNat]? = some r ∧ r.kind.toNat = 0)
      ∧ table.idxVmode ≠ none ∧ 1 ≤ table.ceiling ∧ table.ceiling ≤ 65536 ∧ 0 < table.tSettle := by
  refine ⟨by decide, by decide, by decide, ?_, by decide, by decide, by decide, by decide⟩
  rintro i h
  cases h
  exact ⟨⟨0x20, 1, 0⟩, rfl, rfl⟩

theorem witness_ConstructionRefusesIllFormedTables_parameters :
    construct { table with table := [] } = .refused .illFormedTable
      ∧ construct { table with ceiling := 0 } = .refused .illFormedTable
      ∧ construct { table with ceiling := 65537 } = .refused .illFormedTable
      ∧ construct { table with tSettle := 0 } = .refused .illFormedTable
      ∧ construct table = .next base := by
  refine ⟨rfl, rfl, rfl, rfl, rfl⟩

/-- The four places a word is fetched in. -/
theorem witness_StepRunsTheDecodedInstruction :
    (fetch (offered [0x5000] device) = .word (.req16 0x5000) ∧ decode (.req16 0x5000) = .ok .decode)
      ∧ (fetch (base.withFetchWord 3 4) = .word (.kind3 4) ∧ decode (.kind3 4) = .ok .decAscii)
      ∧ (fetch (base.withFetchWord 16 0xA786) = .word (.ct16 0xA786)
          ∧ decode (.ct16 0xA786) = .ok (.energyUpdate 7 0x86))
      ∧ (fetch (base.withFetchWord 8 0xFF) = .word (.st8 0xFF)
          ∧ decode (.st8 0xFF) = .ok (.tallyUnknown80 127))
      ∧ resetDue (base.withFetchWord 8 0xFF) = false ∧ resetDue (offered [0x5000] device) = false := by decide

/-- Code 0x33, unknown to the table, is a timeout under this map (R7, R77). -/
def renumbered : StatusMap := { StatusMap.standard with timeout := [0x33] }

/-- A failed read with code 0x33 under `renumbered`: the code is kept, TIMEOUT counts, EXISTS is cleared; and
code 0x04 is unknown there. -/
theorem test_renumbered_status_map :
    let c := { table with statusMap := renumbered : Config }
    let t := ran (.cmd 2) (scripted [.cw 1, .rd [] 9, .ls 0x33] { device with cfg := c })
    t.arch.lastStatus = 0x33 ∧ t.arch.cnt.timeout = 1 ∧ t.arch.cnt.unknown = 0 ∧ t.arch.existsFlag = false
      ∧ statusMap renumbered 0x04 = .unknown := by decide

/-- In TALLY, a code that an ST8 row numbers and one that the map renumbers. -/
theorem witness_StepTalliesByTheConfiguredMap :
    ∀ code ∈ [0x05#8, 0x33], ∃ s : State,
      s.arch.phase = .tally ∧ s.flight.code = code ∧ s.cfg.statusMap = renumbered ∧ resetDue s = false := by
  intro code _
  exact ⟨{ base with
      arch := { base.arch with phase := .tally }, flight := { base.flight with code := code }
      cfg := { table with statusMap := renumbered } }, rfl, rfl, rfl, rfl⟩

theorem witness_EveryStatusCodeHasOneTallyRule : device.cfg.statusMap = StatusMap.standard := rfl

theorem witness_StepRunsARequest :
    let s := offered [0x3002] device
    s.arch.phase = .idle ∧ s.env.inbox = [.request 0x3002] ∧ decode (.req16 0x3002) = .ok (.cmd 2) := by
  decide

theorem witness_IllegalRequestIsRefused :
    (offered [0x0000] device).arch.phase = .idle ∧ (offered [0x0000] device).env.inbox = [.request 0x0000]
      ∧ ∀ i, decode (.req16 0x0000) ≠ .ok i := ⟨rfl, rfl, nofun⟩

theorem witness_RequestWaitsWhileBusy :
    let s := offered [0x2000] (reading [.rd [0xC8, 0xF3] 0])
    s.arch.phase ≠ .idle ∧ .rst ∉ s.env.inbox ∧ step s = .next (stepped s)
      ∧ (stepped s).arch.phase = .idle := ⟨by decide, by decide, rfl, rfl⟩

/-- Waiting in RD, a request and then the reset signal offered. -/
def cutShort : State :=
  { reading [.stall .rd] with env := { (reading [.stall .rd]).env with inbox := [.request 0x2000, .rst] } }

/-- The reset signal acts past the request that waits (R200), which stays (93 U15). -/
theorem test_reset_signal_while_busy :
    (stepped cutShort).arch.phase = .idle ∧ (stepped cutShort).arch.existsFlag = false
      ∧ (stepped cutShort).env.inbox = [.request 0x2000] := by decide

theorem witness_ResetValues : resetDue cutShort = true ∧ cutShort.arch.existsFlag = true := by decide

/-- Busy behind a request, and in IDLE at the head. -/
theorem witness_ResetSignalActsInAnyPhase :
    (cutShort.env.inbox = [.request 0x2000] ++ .rst :: [] ∧ .rst ∉ [HostInput.request 0x2000]
        ∧ cutShort.arch.phase ≠ .idle)
      ∧ ∃ s : State, s.env.inbox = [] ++ .rst :: [] ∧ s.arch.phase = .idle :=
  ⟨by decide, { device with env := { device.env with inbox := [.rst] } }, rfl, rfl⟩

theorem witness_IdleBlockWaits : device.arch.phase = .idle ∧ device.env.inbox = [] := ⟨rfl, rfl⟩

theorem witness_NoStepChangesTheConfiguration :
    step (offered [0xF000] device) = .next (stepped (offered [0xF000] device)) := rfl

theorem witness_ProbeOutcome : (scripted [.ls 0] base).env.script = .ls 0 :: [] := rfl

theorem witness_OnlyASuccessfulProbeRaisesExists :
    let s := offered [0x2000] (scripted [.ls 0] base)
    step s = .next (stepped s) ∧ (stepped s).arch.existsFlag = true ∧ s.arch.existsFlag = false :=
  ⟨rfl, rfl, rfl⟩

theorem witness_CmdRefusesAnIndexOutsideTheTable :
    device.cfg.table.length ≤ (7 : BitVec 8).toNat ∧ device.cfg.table.length ≤ (255 : BitVec 8).toNat := by
  decide

theorem witness_CmdIsAbsentWithoutDevice :
    (6 : BitVec 8).toNat < base.cfg.table.length ∧ base.arch.existsFlag = false := by decide

theorem witness_CmdIncompleteWrite :
    device.cfg.table[(2 : BitVec 8).toNat]? = some ⟨0x88, 2, 2⟩ ∧ device.arch.existsFlag = true
      ∧ (scripted [.cw 0] device).env.script = .cw 0 :: [] ∧ (0 : Nat) ≠ 1 ∧ (2 : Nat) ≠ 1
      ∧ ([] : List Answer).head? ≠ some (.stall .wrClose) := by decide

/-- A status that is no success, no bytes, and 18 bytes. -/
theorem witness_CmdReadFailure :
    ∀ p ∈ [([0xC8#8, 0xF3], 3#8), ([], 0), (filler 18, 0)],
      (p.2 ≠ 0x00#8 ∨ p.1.length = 0 ∨ 17 < p.1.length)
        ∧ (scripted [.cw 1, .rd p.1 p.2, .ls 0] device).env.script = [.cw 1, .rd p.1 p.2, .ls 0]
        ∧ device.cfg.table[(2 : BitVec 8).toNat]? = some ⟨0x88, 2, 2⟩ ∧ device.arch.existsFlag = true := by
  decide

/-- One byte and 17 bytes on a row of two. -/
theorem witness_CmdStoresTheResponse :
    ∀ bytes ∈ [[0xE8#8], filler 17], 1 ≤ bytes.length ∧ bytes.length ≤ 17
      ∧ (scripted [.cw 1, .rd bytes 0] device).env.script = [.cw 1, .rd bytes 0]
      ∧ device.cfg.table[(2 : BitVec 8).toNat]? = some ⟨0x88, 2, 2⟩ ∧ device.arch.existsFlag = true
      ∧ (2#3 ≠ kindAscii ∧ 2#3 ≠ kindEnergy) := by decide

/-- Counts 16 and 17 of 17 bytes (V61, V62), and counts one within and one past 4 bytes (V66, V65). -/
theorem witness_CmdTerminatesAsciiResponses :
    ∀ p ∈ [(0x10#8, filler 16), (0x11, filler 16), (0x03, [0x41, 0x42, 0x43]), (0x04, [0x41, 0x42, 0x43])],
      p.2.length < 17
        ∧ (scripted [.cw 1, .rd (p.1 :: p.2) 0] device).env.script = [.cw 1, .rd (p.1 :: p.2) 0]
        ∧ device.cfg.table[(5 : BitVec 8).toNat]? = some ⟨0x99, 17, kindAscii⟩
        ∧ device.arch.existsFlag = true := by decide

theorem witness_CmdRunsTheEnergyUpdate :
    ∀ bytes ∈ [[0x06#8], filler 7, filler 17], 1 ≤ bytes.length ∧ bytes.length ≤ 17
      ∧ (scripted [.cw 1, .rd bytes 0] device).env.script = [.cw 1, .rd bytes 0]
      ∧ device.cfg.table[(4 : BitVec 8).toNat]? = some ⟨0x86, 7, kindEnergy⟩
      ∧ device.arch.existsFlag = true := by decide

/-- A FETCHEXP waiting in RD. -/
def fetching (answers : List Answer) : State :=
  { reading answers with
    arch := { (reading answers).arch with curIdx := 0 }
    flight := { (reading answers).flight with op := .fetchexp } }

/-- A PROBE waiting in RD_STATUS. -/
def probing (answers : List Answer) : State :=
  { reading answers with
    arch := { (reading answers).arch with phase := .rdStatus }
    flight := { (reading answers).flight with op := .probe } }

/-- An operation that waited fails, waits on, or ends in success. -/
theorem witness_Waiting :
    (Waiting (reading [.rd [] 2, .ls 2])
        ∧ step (reading [.rd [] 2, .ls 2]) = .next (stepped (reading [.rd [] 2, .ls 2]))
        ∧ (stepped (reading [.rd [] 2, .ls 2])).env.responses = [resultOnly .failure])
      ∧ (Waiting (reading [.stall .rd]) ∧ (stepped (reading [.stall .rd])).env.responses = [])
      ∧ (Waiting (fetching [.rd [] 2, .ls 2]) ∧ (fetching [.rd [] 2, .ls 2]).flight.op = .fetchexp
        ∧ (stepped (fetching [.rd [] 2, .ls 2])).env.responses = [resultOnly .failure])
      ∧ (stepped (reading [.rd [0xC8, 0xF3] 0])).arch.phase = .idle
      ∧ Waiting (probing []) ∧ (probing []).flight.op = .probe ∧ (probing []).arch.phase ≠ .rd :=
  ⟨⟨by decide, rfl, rfl⟩, ⟨by decide, rfl⟩, ⟨by decide, rfl, rfl⟩, rfl, by decide, rfl, by decide⟩

theorem witness_FailedTransactionKeepsTheData :
    let s := scripted [.cw 0] device
    (exec (.cmd 2) s = .next (ran (.cmd 2) s)
        ∧ (ran (.cmd 2) s).env.responses = s.env.responses ++ [resultOnly .failure])
      ∧ exec .fetchexp s = .next (ran .fetchexp s)
      ∧ (ran .fetchexp s).env.responses = s.env.responses ++ [resultOnly .failure] :=
  ⟨⟨rfl, rfl⟩, rfl, rfl⟩

theorem witness_RequestsWriteOnlyTheirElements :
    exec .decode device = .next (ran .decode device)
      ∧ exec .probe (scripted [.ls 0] base) = .next (ran .probe (scripted [.ls 0] base))
      ∧ exec (.cmd 2) (scripted [.cw 0] device) = .next (ran (.cmd 2) (scripted [.cw 0] device))
      ∧ exec .fetchexp (scripted [.cw 0] device) = .next (ran .fetchexp (scripted [.cw 0] device))
      ∧ (device.cfg.table.getD (2 : BitVec 8).toNat default).kind ≠ kindEnergy
      ∧ device.cfg.wf = true ∧ (curRow (reading [])).kind ≠ kindEnergy :=
  ⟨rfl, rfl, rfl, rfl, by decide, by decide, by decide⟩

/-- A success, a failure, an absence and a refusal. -/
theorem witness_OneTallyPerTransaction :
    (ran (.cmd 2) (scripted [.cw 1, .rd [0xC8, 0xF3] 0] device)).env.responses = [resultOnly .success]
      ∧ (ran (.cmd 2) (scripted [.cw 0] device)).env.responses = [resultOnly .failure]
      ∧ (ran (.cmd 2) base).env.responses = [resultOnly .absent]
      ∧ (ran (.cmd 7) device).env.responses = [resultOnly .refused]
      ∧ (ran .fetchexp (scripted [.cw 0] device)).env.responses = [resultOnly .failure]
      ∧ (ran .fetchexp base).env.responses = [resultOnly .absent]
      ∧ device.env.responses = [] ∧ device.arch.cnt.totalOk.toNat < counterMax
      ∧ device.arch.cnt.totalErr.toNat < counterMax := by decide

theorem witness_RequestsEndWhenTheTransportAnswers :
    Responsive (scripted [.cw 1, .rd [0xC8, 0xF3] 0] device) ∧ Responsive device := by decide

/-- Waiting in RD, two stalls to come. -/
theorem witness_WaitingOperationEnds :
    let s := reading [.stall .rd, .stall .rd, .rd [0xC8, 0xF3] 0]
    restsIn s.arch.phase = true ∧ .rst ∉ s.env.inbox ∧ s.arch.phase ≠ .idle := by decide

/-- Each of the six calls of a transaction can be the one that waits, and the reset signal then cuts the
transaction short there (70 R200, 93 U16). -/
theorem witness_StalledTransactionWaits :
    ∀ p ∈ [(([] : List Answer), Phase.settle), ([], .wrOpen), ([], .wrByte), ([.cw 1], .wrClose), ([.cw 1], .rd),
        ([.cw 1, .rd [] 0], .rdStatus)],
      let s := scripted (p.1 ++ [.stall p.2]) device
      let t := ran (.cmd 2) { s with env := { s.env with inbox := [.request 0x2000, .rst] } }
      s.cfg.table[(2 : BitVec 8).toNat]? = some ⟨0x88, 2, 2⟩ ∧ s.arch.existsFlag = true
        ∧ t.arch.phase = p.2 ∧ (stepped t).arch.phase = .idle ∧ (stepped t).env.inbox = [.request 0x2000] := by
  decide

theorem witness_FetchexpWithoutModeCommandOrDevice :
    (State.reset.withFetchWord 16 0x4000).arch.phase = .idle
      ∧ { base with cfg := oneRow 0x88 2 2 }.cfg.idxVmode = none ∧ base.cfg.idxVmode = some 0
      ∧ (0 : BitVec 8).toNat < base.cfg.table.length ∧ base.arch.existsFlag = false := by decide

/-- The ends of the exponent's range (V79, V80), on 1 and on 17 bytes. -/
theorem witness_FetchexpLatchesTheExponent :
    ∀ p ∈ [(0x0F#8, ([] : List Byte)), (0x10, filler 16)], p.2.length < 17
      ∧ (scripted [.cw 1, .rd (p.1 :: p.2) 0] device).env.script = [.cw 1, .rd (p.1 :: p.2) 0]
      ∧ device.cfg.idxVmode = some 0
      ∧ device.cfg.table[(0 : BitVec 8).toNat]? = some ⟨0x20, 1, kindByte⟩
      ∧ device.arch.existsFlag = true := by decide

/-- No byte accepted; and a read of no bytes on the mode row. -/
theorem witness_FetchexpFailsAsACmdDoes :
    device.cfg.idxVmode = some 0 ∧ device.cfg.table[(0 : BitVec 8).toNat]? = some ⟨0x20, 1, kindByte⟩
      ∧ device.arch.existsFlag = true ∧ (scripted [.cw 0] device).env.script = .cw 0 :: [] ∧ (0 : Nat) ≠ 1
      ∧ ([] : List Answer).head? ≠ some (.stall .wrClose)
      ∧ (scripted [.cw 1, .rd [] 0, .ls 0] device).env.script = [.cw 1, .rd [] 0, .ls 0]
      ∧ ([] : List Byte).length = 0 := by decide

theorem witness_FailedFetchexpInvalidatesTheExponent :
    exec .fetchexp base = .next (ran .fetchexp base)
      ∧ (ran .fetchexp base).env.responses = base.env.responses ++ [resultOnly .absent]
      ∧ (ran .fetchexp (scripted [.cw 0] device)).env.responses = [resultOnly .failure] := ⟨rfl, rfl, rfl⟩

theorem witness_DecodeRunsTheSelectedDecoder :
    (received 5 7 []).arch.respValid = true ∧ decode (.kind3 (received 5 7 []).arch.respKind) = .ok .decEnergy
      ∧ decode (.kind3 (received 0 1 []).arch.respKind) = .ok .decByte := by decide

theorem witness_DecodeRefusals :
    ∀ s ∈ [device, received 6 1 [], received 7 17 [], received 0 0 [], received 1 1 [], received 3 1 [],
        received 3 2 [], received 4 17 [], received 5 6 []],
      s.arch.respValid = false ∨ 6 ≤ s.arch.respKind.toNat
        ∨ (s.arch.respKind.toNat = 0 ∧ s.arch.respLen.toNat < 1)
        ∨ (1 ≤ s.arch.respKind.toNat ∧ s.arch.respKind.toNat ≤ 3 ∧ s.arch.respLen.toNat < 2)
        ∨ (s.arch.respKind.toNat = 3 ∧ s.arch.expValid = false)
        ∨ (s.arch.respKind.toNat = 4 ∧ s.arch.asciiOk = false)
        ∨ (s.arch.respKind.toNat = 5 ∧ s.arch.respLen.toNat < 7) := by decide

theorem witness_Linear11Decoder :
    ((received 2 2 [0x00, 0x84]).arch.respValid = true ∧ 2 ≤ (received 2 2 [0x00, 0x84]).arch.respLen.toNat)
      ∧ device.arch.respValid = false ∧ (received 2 1 []).arch.respLen.toNat < 2 := by decide

theorem witness_VlinearDecoder :
    (∃ s : State, s.arch.respValid = true ∧ s.arch.expValid = true ∧ 2 ≤ s.arch.respLen.toNat)
      ∧ device.arch.expValid = false ∧ (received 3 1 []).arch.respLen.toNat < 2 :=
  ⟨⟨{ received 3 2 [] with arch := { (received 3 2 []).arch with expValid := true } },
    rfl, rfl, by decide⟩, rfl, by decide⟩

/-- Counts 0 and 16. -/
theorem witness_AsciiDecoder :
    ∀ count ∈ [0x00#8, 0x10], (received 4 17 [count]).arch.respValid = true
      ∧ { (received 4 17 [count]).arch with asciiOk := true }.asciiOk = true
      ∧ (readRaw (received 4 17 [count]).arch.raw 0).toNat ≤ 16
      ∧ (received 4 17 [count]).arch.asciiOk = false := by decide

/-- Two states that differ, and agree on what the decoders read. -/
theorem witness_DecodersArePure :
    let s := received 2 2 [0xC8, 0xF3]
    let t := { s with arch := { s.arch with addr := 1, existsFlag := false, eAcc := 7 } }
    s.arch.raw = t.arch.raw ∧ s.arch.respValid = t.arch.respValid ∧ s.arch.respLen = t.arch.respLen
      ∧ s.arch.respKind = t.arch.respKind ∧ s.arch.asciiOk = t.arch.asciiOk ∧ s.arch.vexp = t.arch.vexp
      ∧ s.arch.expValid = t.arch.expValid ∧ s.arch.addr ≠ t.arch.addr :=
  ⟨rfl, rfl, rfl, rfl, rfl, rfl, rfl, by decide⟩

theorem witness_DecodedBinary32IsExact :
    (-65535 : Int) ≤ 65535 ∧ (-16 : Int) ≤ 15 ∧ f32Value (f32OfDyadic (-1) (-16)) = -1 / 65536 := by
  decide +kernel

theorem device_unsaturated : device.arch.cnt.unsaturated := by
  simp [Counters.unsaturated, Counters.categories, device, base, State.reset, Arch.reset, Counters.zero]

theorem witness_ExactlyOneTallyLaw :
    (∀ k ∈ device.arch.cnt.categories, k.toNat < counterMax)
      ∧ device.arch.cnt.totalErr.toNat < counterMax ∧ device.arch.cnt.totalOk.toNat < counterMax :=
  ⟨device_unsaturated.1, device_unsaturated.2, by decide⟩

theorem witness_EnergyUpdateComputes :
    7 ≤ (received 5 7 (filler 7)).arch.respLen.toNat ∧ (received 5 6 (filler 6)).arch.respLen.toNat < 7 := by
  decide

theorem witness_RolloverMatchesTheUnwrappedCount :
    let s := received 5 7 [0x06, 0xF4, 0x01, 0x00, 0xD0, 0x07, 0x00]
    let s := { s with arch := { s.arch with eLastAcc := 100, eLastRoll := 255, eLastSamp := 1000 } }
    7 ≤ s.arch.respLen.toNat ∧ energyRoll s.arch.raw < s.arch.eLastRoll
      ∧ s.arch.eLastSamp < energySamp s.arch.raw
      ∧ ∃ t, exec (.energyUpdate 7 0x86) s = .next t := ⟨by decide, by decide, by decide, _, rfl⟩

theorem witness_EnergyCountNeverWraps :
    let s := { received 5 7 (filler 7) with cfg := { table with ceiling := 65536 } }
    s.cfg.ceiling ≤ 65536 ∧ 7 ≤ s.arch.respLen.toNat ∧ ∃ t, exec (.energyUpdate 7 0x86) s = .next t :=
  ⟨by decide, by decide, _, rfl⟩

/-- A tie (2^24 + 1, between 2^24 and 2^24 + 2) goes to the even neighbour. -/
theorem test_average_power_view_tie :
    f32OfRat 16777217 = 0x4B800000 ∧ f32OfRat 16777219 = 0x4B800002 ∧ f32OfRat (-16777217) = 0xCB800000 := by
  decide +kernel

theorem witness_AveragePowerViewIsNearest :
    (1 : ℚ) / 16777215 ≤ |(1 : ℚ) / 10| ∧ |(1 : ℚ) / 10| ≤ 33554431 ∧ f32OfRat (1 / 10) = 0x3DCCCCCD := by
  refine ⟨?_, ?_, by decide +kernel⟩ <;> norm_num [abs_of_pos]

theorem witness_StepKeepsTagsSound :
    let s := offered [0x5000] device
    TagsSound s ∧ step s = .next (stepped s) := by
  refine ⟨?_, rfl⟩
  refine ⟨rfl, by decide, by decide, ?_, by decide⟩
  intro _; decide

theorem witness_StepKeepsCountersAgree :
    let s := offered [0x3002] (scripted [.cw 0] device)
    CountersAgree s ∧ s.arch.cnt.unsaturated ∧ step s = .next (stepped s) := by
  refine ⟨fun _ => by decide, device_unsaturated, rfl⟩

theorem witness_StepKeepsEnergyCopiesAgree :
    let s := offered [0x3004] (scripted [.cw 1, .rd (filler 7) 0] device)
    EnergyCopiesAgree s ∧ step s = .next (stepped s) := ⟨⟨rfl, rfl, rfl⟩, rfl⟩

theorem witness_StepKeepsCallOrder :
    let s := reading [.rd [0xC8, 0xF3] 0]
    CallOrder s ∧ step s = .next (stepped s) := ⟨⟨rfl, by decide, by decide⟩, rfl⟩

end Sys2Proof.Tests
end

/-! PROOFS. The obligations on 00_scope: a step in TALLY, a refused CMD index, `satinc`; before them the rules
of a step and of an operation that ends in CHECK. -/

namespace Sys2Proof.Proofs

open Sys2Proof.Machine

/-! ## A step by what it fetches -/

/-- With no reset signal acting, a step runs what stands before the sequencer. -/
theorem step_of_not_resetDue {s : State} (hr : resetDue s = false) : step s = runFetched s := by
  simp [step, hr]

/-- A fetched word that is an instruction is run, and the sequencer goes on from the phase it was fetched
in. -/
theorem step_of_word {s t : State} {w : FetchWord} {i : Instr} (hr : resetDue s = false)
    (hf : fetch s = .word w) (hd : decode w = .ok i) (hx : exec i (accept s) = .next t) :
    step s = .next (continueFrom s.arch.phase t) := by
  simp [step_of_not_resetDue hr, runFetched, hf, hd, runInstr, hx]

/-- Where no word is read the operation in progress goes on (20_memory R69). -/
theorem step_of_carryOn {s : State} (hr : resetDue s = false) (hf : fetch s = .carryOn) :
    step s = .next (resume s) := by
  simp [step_of_not_resetDue hr, runFetched, hf]

/-- In TALLY the latched code is fetched where an ST8 row numbers it as the map does (log 10, log 12). -/
theorem fetch_of_tally {s : State} (hp : s.arch.phase = .tally) :
    fetch s = if followsTable s.cfg.statusMap s.flight.code then .word (.st8 s.flight.code)
      else .carryOn := by
  simp [fetch, hp]

/-- Outside IDLE the fetched selector stays where it is. -/
theorem accept_of_busy {s : State} (hp : s.arch.phase ≠ .idle) : accept s = s := if_neg hp

/-- Settles O7: the fetched ST8 row and the tally carried on by the map come to the same, by
`exec_decodeSt8`. -/
theorem stepTalliesByTheConfiguredMap : Obligations.StepTalliesByTheConfiguredMap := by
  intro s hp hr
  cases hf : followsTable s.cfg.statusMap s.flight.code with
  | true =>
    have hx : exec (decodeSt8 s.flight.code) (accept s) = .next (tally s.flight.code s) := by
      rw [accept_of_busy (by simp [hp]), exec_decodeSt8 hf]
    rw [step_of_word hr (by rw [fetch_of_tally hp, if_pos hf]) rfl hx, hp]
    rfl
  | false =>
    rw [step_of_carryOn hr (by simp [fetch_of_tally hp, hf])]
    simp only [resume, hp, atTally]

/-! ## Operations that end in CHECK -/

/-- An operation that ends in CHECK only answers, and its latch is set. -/
theorem finish_start (r : Response) (op : Op) (s : State) :
    finish r (start op s) =
      answered r [.check, .done, .idle] { s with flight := { s.flight with op := op } } := by
  simp [finish_eq_answered, answered]

/-- CMD leaves CHECK refused, with nothing latched in `CUR_IDX` (40_transaction R101; log 25). -/
theorem execCmd_of_outside {i : BitVec 8} {s : State} (hi : s.cfg.nCmds ≤ i.toNat) :
    execCmd i s = .next (refuse (start .cmd s)) := by
  simp [execCmd, hi]

/-- Settles O20: the refusal is an operation that ends in CHECK. -/
theorem cmdRefusesAnIndexOutsideTheTable : Obligations.CmdRefusesAnIndexOutsideTheTable := by
  intro s i hi
  have hx : exec (.cmd i) s = .next (refuse (start .cmd s)) := execCmd_of_outside hi
  rw [hx, refuse, finish_start]

/-! ## Counters -/

/-- Settles O46: below the maximum and at it. -/
theorem countersSaturate : Obligations.CountersSaturate := by
  intro c
  by_cases h : c.toNat < 2 ^ 32 - 1
  · rw [satinc_of_lt h]
    omega
  · rw [satinc_of_max h]
    omega

end Sys2Proof.Proofs

/-! PROOFS. The obligations on 10_state: what a step runs, the reset values, what waits in the inbox, what each
request may write, and two invariants every step keeps. Before them the rule they share: a property kept by each
thing an operation does to the state is kept by a step. -/

namespace Sys2Proof.Proofs

open Sys2Proof.Machine

/-! ## What the energy update and the last latches leave unchanged -/

/-- ENERGY.UPDATE writes the energy file and nothing else (10_state R30 to R33). -/
theorem updateEnergy_frame (s : State) :
    updateEnergy s = { s with arch := { s.arch with
      avgPower := (updateEnergy s).arch.avgPower, avgValid := (updateEnergy s).arch.avgValid
      eCount := (updateEnergy s).arch.eCount
      eAcc := (updateEnergy s).arch.eAcc, eRoll := (updateEnergy s).arch.eRoll
      eSamp := (updateEnergy s).arch.eSamp
      eLastAcc := (updateEnergy s).arch.eLastAcc, eLastRoll := (updateEnergy s).arch.eLastRoll
      eLastSamp := (updateEnergy s).arch.eLastSamp } } := by
  unfold updateEnergy energyUpdate
  split <;> rfl

/-- A FETCHEXP latches `VEXP` and `EXP_VALID` and nothing else (43_management R173). -/
theorem latchExponent_frame (s : State) :
    latchExponent s = { s with arch := { s.arch with
      vexp := (latchExponent s).arch.vexp, expValid := (latchExponent s).arch.expValid } } := by
  unfold latchExponent
  split <;> rfl

/-- A probe's last step writes `EXISTS` and nothing else (43_management R172). -/
theorem latchProbe_frame (s : State) :
    latchProbe s = { s with arch := { s.arch with existsFlag := (latchProbe s).arch.existsFlag } } := by
  unfold latchProbe
  split <;> rfl

/-! ## What a step keeps -/

section Keeping

variable {P : State → Prop}

/-- What a transaction keeps, an operation resumed at a call keeps (20_memory R69). -/
theorem resume_keeps_of_rests (K : Kept P) {s : State} (hr : restsIn s.arch.phase = true) (h : P s) :
    P (resume s) := by
  unfold resume
  cases hp : s.arch.phase with
  | idle => exact h
  | settle => exact K.atSettle h
  | wrOpen => exact K.atWrOpen h
  | wrByte => exact K.atWrByte h
  | wrClose => exact K.atWrClose h
  | rd => exact K.atRd h
  | rdStatus => exact K.atRdStatus h
  | check | store | tally | accum | done => simp [hp, restsIn] at hr

/-- `P` is kept by a transaction, and by what CHECK does before one. -/
structure CheckKept (P : State → Prop) : Prop extends Kept P where
  index : ∀ i s, P s → P { s with arch := { s.arch with curIdx := i } }
  absent : ∀ s, P s → P { s with arch := { s.arch with expValid := false } }

theorem CheckKept.checkCmd (K : CheckKept P) {s : State} (h : P s) : P (checkCmd s) := by
  rcases checkCmd_cases s with ⟨-, e⟩ | ⟨-, -, e⟩ | ⟨-, -, e⟩ <;> rw [e]
  · exact K.finish h
  · exact K.finish h
  · exact K.transact h

theorem CheckKept.beginFetchexp (K : CheckKept P) {s : State} (h : P s) : P (beginFetchexp s) := by
  rcases beginFetchexp_cases s with ⟨-, e⟩ | ⟨i, -, -, ⟨-, e⟩ | ⟨-, e⟩⟩ <;> rw [e]
  · exact K.finish h
  · exact K.finish (K.absent _ (K.index i s h))
  · exact K.transact (K.index i s h)

/-- An operation in progress keeps `P` from every phase. A state placed in STORE or ACCUM need not have the bytes
or the row that a transaction brings there, so these two are asked for. -/
theorem CheckKept.resume (K : CheckKept P) {s : State} (h : P s)
    (hstore : s.arch.phase = .store →
      P { s with arch := storeResponse (curRow s) s.arch.curIdx s.flight.bytes s.arch })
    (haccum : s.arch.phase = .accum → P (updateEnergy s)) : P (resume s) := by
  cases hr : restsIn s.arch.phase with
  | true => exact resume_keeps_of_rests K.toKept hr h
  | false =>
    unfold Machine.resume
    cases hp : s.arch.phase with
    | check =>
      cases hop : s.flight.op with
      | cmd => exact K.checkCmd h
      | fetchexp => exact K.beginFetchexp h
      | probe => exact K.transact h
      | decode => exact K.finish h
    | store => exact K.toTally (hstore hp)
    | tally => exact K.atTally h
    | accum => exact K.conclude (haccum hp)
    | done => exact K.enter _ _ h
    | idle | settle | wrOpen | wrByte | wrClose | rd | rdStatus => simp [hp, restsIn] at hr

/-- While an operation is in progress and no reset signal acts, a step keeps what the operation keeps. -/
theorem CheckKept.busyStep (K : CheckKept P) {s t : State} (c : StepCase s t) (hb : s.arch.phase ≠ .idle)
    (h : P s)
    (hstore : s.arch.phase = .store →
      P { s with arch := storeResponse (curRow s) s.arch.curIdx s.flight.bytes s.arch })
    (haccum : s.arch.phase = .accum → P (updateEnergy s)) : P t := by
  cases c with
  | rest hp | request _ _ _ hp | illegal _ _ hp => exact absurd hp hb
  | selected i hp hd ht =>
    rcases decodeKind3_cases hd with ⟨-, rfl⟩ | ⟨-, rfl⟩ | ⟨-, rfl⟩ | ⟨-, rfl⟩ | ⟨-, rfl⟩ | ⟨-, rfl⟩ <;>
      cases ht <;> exact K.finish h
  | badKind hp ht => exact ht ▸ K.finish h
  | tally hp ht => exact ht ▸ K.atTally h
  | accum hp hk ht => exact ht ▸ K.conclude (haccum hp)
  | notDue hp ht => exact ht ▸ K.conclude h
  | resume hp ht => exact ht ▸ K.resume h hstore haccum

/-- `P` is kept by all that a request or a reset does too. -/
structure StepKept (P : State → Prop) : Prop extends CheckKept P where
  inbox : ∀ q s, P s → P { s with env := { s.env with inbox := q } }
  latch : ∀ op s, P s → P { s with flight := { s.flight with op := op } }
  retarget : ∀ a s, P s → P { s with arch := retarget a s.arch }
  reset : ∀ s, P s → P (resetAll s)

theorem StepKept.start (K : StepKept P) {op : Op} {s : State} (h : P s) : P (start op s) :=
  K.enter _ _ (K.latch op s h)

/-- Each of the six requests keeps `P`. -/
theorem StepKept.request (K : StepKept P) {w : Word} {i : Instr} {s t : State} (hd : decodeReq16 w = .ok i)
    (hx : exec i s = .next t) (h : P s) : P t := by
  obtain ⟨-, hi⟩ := decodeReq16_cases hd
  rcases hi with ⟨-, -, rfl⟩ | ⟨-, -, rfl⟩ | ⟨-, rfl⟩ | ⟨-, -, rfl⟩ | ⟨-, -, rfl⟩ | ⟨-, -, rfl⟩
  · cases hx
    exact K.finish (K.retarget _ _ (K.enter _ _ h))
  · cases hx
    exact K.transact (K.start h)
  · rcases execCmd_cases hx with ⟨-, rfl⟩ | ⟨-, -, rfl⟩ | ⟨-, -, rfl⟩
    · exact K.finish (K.start h)
    · exact K.finish (K.start (K.index _ s h))
    · exact K.transact (K.start (K.index _ s h))
  · cases hx
    exact K.beginFetchexp (K.start h)
  · cases hx
    exact K.finish (K.start h)
  · cases hx
    exact K.finish (K.reset _ (K.enter _ _ h))

/-- What the parts of a step keep, a step keeps. -/
theorem StepKept.step (K : StepKept P) {s t : State} (hx : step s = .next t) (h : P s)
    (hstore : s.arch.phase = .store →
      P { s with arch := storeResponse (curRow s) s.arch.curIdx s.flight.bytes s.arch })
    (haccum : s.arch.phase = .accum → P (updateEnergy s)) : P t := by
  rcases step_cases hx with ⟨-, rfl⟩ | ⟨-, c⟩
  · exact K.log _ _ (K.enter _ _ (K.reset _ (K.inbox _ s h)))
  · by_cases hb : s.arch.phase = .idle
    · cases c with
      | rest _ _ ht => exact ht ▸ h
      | request w i rest _ _ hd ht => exact K.request hd ht (K.inbox _ s h)
      | illegal w rest _ _ ht => exact ht ▸ K.finish (K.enter _ _ (K.inbox _ s h))
      | selected _ hp | badKind hp | tally hp | accum hp | notDue hp => rw [hb] at hp; cases hp
      | resume hp => exact absurd hb hp
    · exact K.busyStep c hb h hstore haccum

end Keeping

/-! ## Where a step rests -/

/-- A transaction comes to rest. -/
theorem rests_of_comes {s u : State} (h : Comes s u) : restsIn u.arch.phase = true := by
  rcases h with w | ⟨code, r, v, -, rfl⟩
  · exact w.rests
  · rw [toTally_phase]; rfl

/-- Each of the six requests comes to rest. -/
theorem request_rests {w : Word} {i : Instr} {s t : State} (hd : decodeReq16 w = .ok i)
    (hx : exec i s = .next t) : restsIn t.arch.phase = true := by
  obtain ⟨-, hi⟩ := decodeReq16_cases hd
  rcases hi with ⟨-, -, rfl⟩ | ⟨-, -, rfl⟩ | ⟨-, rfl⟩ | ⟨-, -, rfl⟩ | ⟨-, -, rfl⟩ | ⟨-, -, rfl⟩
  · cases hx
    rfl
  · cases hx
    exact rests_of_comes (comes_transact _)
  · rcases execCmd_cases hx with ⟨-, rfl⟩ | ⟨-, -, rfl⟩ | ⟨-, -, rfl⟩
    · rfl
    · rfl
    · exact rests_of_comes (comes_transact _)
  · cases hx
    rcases beginFetchexp_cases (start .fetchexp s) with ⟨-, e⟩ | ⟨_, -, -, ⟨-, e⟩ | ⟨-, e⟩⟩ <;> rw [e]
    · rfl
    · rfl
    · exact rests_of_comes (comes_transact _)
  · cases hx
    rfl
  · cases hx
    rfl

/-- From a state that rests a step comes to rest again (10_state R34 (d); log 1, log 4). -/
theorem step_rests {s t : State} (hr : restsIn s.arch.phase = true) (hx : step s = .next t) :
    restsIn t.arch.phase = true := by
  rcases step_cases hx with ⟨-, rfl⟩ | ⟨hd, c⟩
  · rfl
  · cases c with
    | rest _ _ ht => exact ht ▸ hr
    | request w i rest _ _ hd ht => exact request_rests hd ht
    | illegal _ _ _ _ ht => exact ht ▸ rfl
    | selected _ hp | badKind hp | tally hp | accum hp | notDue hp => simp [hp, restsIn] at hr
    | resume hp ht => exact ht ▸ rests_of_comes (comes_resume ⟨hr, hp, hd⟩)

/-! ## The rows of a well-formed table -/

/-- A well-formed row has no reserved kind (30_encoding R75, R76). -/
theorem kind_le_of_row_wf {r : CommandSpec} (h : r.wf = true) : r.kind.toNat ≤ 5 := by
  unfold CommandSpec.wf at h
  split at h
  · next hk => simp [hk]
  split at h
  · next hk => rcases hk with hk | hk | hk <;> simp [hk]
  split at h
  · next hk => simp [hk]
  split at h
  · next hk => simp [hk]
  · cases h

/-- The checks of a well-formed configuration on its rows and on its mode command (30_encoding R76). -/
theorem rows_and_vmode_of_wf {c : Config} (h : c.wf = true) :
    (∀ r ∈ c.table, r.wf = true) ∧ c.vmodeOk = true := by
  simp only [Config.wf, Bool.and_eq_true, List.all_eq_true] at h
  obtain ⟨⟨⟨⟨⟨-, hrows⟩, hvmode⟩, -⟩, -⟩, -⟩ := h
  exact ⟨hrows, hvmode⟩

/-- No row of a well-formed table has a reserved kind, nor has the zero row (30_encoding R76; log 17). -/
theorem row_kind_le_of_wf {c : Config} (h : c.wf = true) (k : Nat) :
    (c.table.getD k default).kind.toNat ≤ 5 := by
  obtain ⟨hrows, -⟩ := rows_and_vmode_of_wf h
  by_cases hk : k < c.table.length
  · rw [List.getD_eq_getElem _ _ hk]
    exact kind_le_of_row_wf (hrows _ (List.getElem_mem hk))
  · rw [List.getD_eq_default _ _ (Nat.le_of_not_lt hk)]
    decide

/-- The mode row of a well-formed table is of kind BYTE (30_encoding R76). -/
theorem mode_row_kind_of_wf {c : Config} {i : BitVec 8} (h : c.wf = true) (hi : c.idxVmode = some i) :
    (c.table.getD i.toNat default).kind = kindByte := by
  obtain ⟨-, hvmode⟩ := rows_and_vmode_of_wf h
  simp only [Config.vmodeOk, hi] at hvmode
  rw [List.getD_eq_getElem?_getD]
  cases hr : c.table[i.toNat]? with
  | none => rw [hr] at hvmode; cases hvmode
  | some r => rw [hr] at hvmode; exact eq_of_beq hvmode

/-! ## The tags -/

/-- What the tags promise of RAW, apart from where the state rests. -/
def TagsHold (s : State) : Prop :=
  s.arch.respLen.toNat ≤ maxLen
    ∧ (s.arch.respValid = true → 1 ≤ s.arch.respLen.toNat)
    ∧ (s.cfg.wf = true → s.arch.respKind.toNat ≤ 5)
    ∧ (s.arch.asciiOk = true →
        s.arch.respValid = true ∧ s.arch.respKind = kindAscii
          ∧ asciiFits (asciiCount s.arch.raw) s.arch.respLen.toNat = true
          ∧ readRaw s.arch.raw (asciiCount s.arch.raw + 1) = 0)

theorem tagsSound_iff (s : State) : TagsSound s ↔ restsIn s.arch.phase = true ∧ TagsHold s := Iff.rfl

/-- The length of a read that succeeded (40_transaction R108). -/
theorem length_of_readOk {bytes : List Byte} {st : Byte} (h : readOk bytes st = true) :
    1 ≤ bytes.length ∧ bytes.length ≤ maxLen := by
  simp only [readOk, Bool.and_eq_true, decide_eq_true_eq] at h
  obtain ⟨⟨-, h1⟩, h2⟩ := h
  exact ⟨h1, h2⟩

/-- The terminator does not touch the count. -/
theorem asciiCount_writeRaw_succ (raw : RawBuf) (k : Nat) (b : Byte) :
    asciiCount (writeRaw raw (k + 1) b) = asciiCount raw := by
  simp [asciiCount, readRaw_writeRaw]

/-- A count that fits leaves room for its terminator (40_transaction R111). -/
theorem readRaw_terminator {raw : RawBuf} {n : Nat} (h : asciiFits (asciiCount raw) n = true) :
    readRaw (writeRaw raw (asciiCount raw + 1) 0) (asciiCount raw + 1) = 0 := by
  simp only [asciiFits, maxPayload, Bool.and_eq_true, decide_eq_true_eq] at h
  rw [readRaw_writeRaw, if_pos ⟨rfl, by omega⟩]

/-- The store of a successful read makes the tags true whatever they were (40_transaction R110, R111). -/
theorem tagsHold_store {s : State} {bytes : List Byte} (idx : BitVec 8) (h : readOk bytes stSuccess = true) :
    TagsHold { s with arch := storeResponse (curRow s) idx bytes s.arch } := by
  obtain ⟨h1, h17⟩ := length_of_readOk h
  have hlen : (BitVec.ofNat 5 bytes.length).toNat = bytes.length := by
    rw [BitVec.toNat_ofNat]
    exact Nat.mod_eq_of_lt (Nat.lt_of_le_of_lt h17 (by decide))
  refine ⟨hlen.trans_le h17, fun _ => hlen.symm ▸ h1, fun hw => row_kind_le_of_wf hw _, fun hok => ?_⟩
  have hok' := hok
  simp only [storeResponse, Bool.and_eq_true, beq_iff_eq] at hok'
  obtain ⟨hkind, hfits⟩ := hok'
  refine ⟨rfl, hkind, ?_⟩
  simp only [storeResponse, hkind, hfits, hlen, beq_self_eq_true, Bool.and_self, if_true,
    asciiCount_writeRaw_succ, true_and]
  exact readRaw_terminator hfits

/-- At reset no response is stored (10_state R38). -/
theorem tagsHold_of_reset {s : State} (h : s.arch = Arch.reset) : TagsHold s := by
  rw [TagsHold, h]
  exact ⟨by decide, by decide, fun _ => by decide, by decide⟩

/-- Only a store, a SETADDR and a reset write the tags or RAW. -/
theorem tagsHold_kept : StepKept TagsHold where
  enter _ _ h := h
  log _ _ h := h
  respond _ _ h := h
  world _ _ _ _ _ _ h := h
  carry _ _ _ h := h
  tally _ _ h := h
  store _ hok _ := tagsHold_store _ hok
  energy s _ h := by rw [updateEnergy_frame]; exact h
  exponent s _ h := by rw [latchExponent_frame]; exact h
  probe s _ h := by rw [latchProbe_frame]; exact h
  index _ _ h := h
  absent _ h := h
  inbox _ _ h := h
  latch _ _ h := h
  retarget _ _ := fun ⟨hlen, _, hkind, _⟩ => ⟨hlen, by simp [retarget], hkind, by simp [retarget]⟩
  reset _ _ := tagsHold_of_reset rfl

/-- Settles O57: `TagsHold` is kept by all parts of a step, and a step from a resting state rests. -/
theorem stepKeepsTagsSound : Obligations.StepKeepsTagsSound := by
  intro s t hs hx
  obtain ⟨hr, h⟩ := (tagsSound_iff s).mp hs
  exact (tagsSound_iff t).mpr ⟨step_rests hr hx,
    tagsHold_kept.step hx h (fun hp => by simp [hp, restsIn] at hr) (fun hp => by simp [hp, restsIn] at hr)⟩

/-! ## The counters -/

/-- A counter that stands below its maximum after `satinc` was raised by one. -/
theorem lt_of_satinc_lt {c : Counter} (h : (satinc c).toNat < counterMax) :
    c.toNat < counterMax ∧ (satinc c).toNat = c.toNat + 1 := by
  have hc : c.toNat < counterMax := (le_satinc c).trans_lt h
  exact ⟨hc, satinc_of_lt hc⟩

/-- A failure raises one of the nine category counters and leaves the others (40_transaction R118 to R126). -/
theorem bumpCategory_categories {k : Category} (hk : k ≠ .success) (c : Counters) :
    ∃ before x after, c.categories = before ++ x :: after
      ∧ (bumpCategory k c).categories = before ++ satinc x :: after := by
  cases k with
  | success => exact absurd rfl hk
  | wrIncomplete => exact ⟨c.categories.take 0, _, _, rfl, rfl⟩
  | oversize => exact ⟨c.categories.take 1, _, _, rfl, rfl⟩
  | timeout => exact ⟨c.categories.take 2, _, _, rfl, rfl⟩
  | addrNack => exact ⟨c.categories.take 3, _, _, rfl, rfl⟩
  | dataNack => exact ⟨c.categories.take 4, _, _, rfl, rfl⟩
  | arbLost => exact ⟨c.categories.take 5, _, _, rfl, rfl⟩
  | bufOvf => exact ⟨c.categories.take 6, _, _, rfl, rfl⟩
  | unknown => exact ⟨c.categories.take 7, _, _, rfl, rfl⟩
  | misuse => exact ⟨c.categories.take 8, _, _, rfl, rfl⟩

/-- A category counter is no total. -/
theorem bumpCategory_totalErr (k : Category) (c : Counters) :
    (bumpCategory k c).totalErr = c.totalErr := by
  cases k <;> rfl

/-- A total is no category counter. -/
theorem bumpTotal_categories (k : Category) (c : Counters) :
    (bumpTotal k c).categories = c.categories := by
  unfold bumpTotal
  split <;> rfl

/-- The total of errors is raised by a failure only (40_transaction R127). -/
theorem bumpTotal_totalErr (k : Category) (c : Counters) :
    (bumpTotal k c).totalErr = if k = .success then c.totalErr else satinc c.totalErr := by
  unfold bumpTotal
  split <;> rfl

/-- A failure that saturates no counter met none that was saturated, and raised the sum by one. -/
theorem bumpCategory_unsaturated {k : Category} (hk : k ≠ .success) {c : Counters}
    (h : ∀ x ∈ (bumpCategory k c).categories, x.toNat < counterMax) :
    (∀ x ∈ c.categories, x.toNat < counterMax)
      ∧ (bumpCategory k c).categorySum = c.categorySum + 1 := by
  obtain ⟨before, x, after, hc, hb⟩ := bumpCategory_categories hk c
  rw [hb, List.forall_mem_append, List.forall_mem_cons] at h
  obtain ⟨hbefore, hx, hafter⟩ := h
  obtain ⟨hx, hinc⟩ := lt_of_satinc_lt hx
  constructor
  · rw [hc, List.forall_mem_append, List.forall_mem_cons]
    exact ⟨hbefore, hx, hafter⟩
  · simp only [Counters.categorySum, hc, hb, List.map_append, List.map_cons, List.sum_append,
      List.sum_cons, hinc]
    omega

/-- A tally raises the sum of the categories and the total together, or neither (40_transaction R127). -/
theorem countersAgree_tallyAs (k : Category) (code : Byte) {s : State} (h : CountersAgree s) :
    CountersAgree (tallyAs k code s) := by
  simp only [CountersAgree, Counters.unsaturated, Counters.categorySum, tallyAs_arch, bumpTotal_categories,
    bumpTotal_totalErr, bumpCategory_totalErr] at h ⊢
  by_cases hk : k = .success
  · subst hk
    exact h
  · rw [if_neg hk]
    rintro ⟨hcat, htot⟩
    obtain ⟨hcat, hsum⟩ := bumpCategory_unsaturated hk hcat
    obtain ⟨htot, hinc⟩ := lt_of_satinc_lt htot
    calc (satinc s.arch.cnt.totalErr).toNat = s.arch.cnt.totalErr.toNat + 1 := hinc
      _ = s.arch.cnt.categorySum + 1 := by rw [h ⟨hcat, htot⟩, Counters.categorySum]
      _ = _ := hsum.symm

/-- Only a tally and a reset write the counters. -/
theorem countersAgree_kept : StepKept CountersAgree where
  enter _ _ h := h
  log _ _ h := h
  respond _ _ h := h
  world _ _ _ _ _ _ h := h
  carry _ _ _ h := h
  tally _ _ h := countersAgree_tallyAs _ _ h
  store _ _ h := h
  energy s _ h := by rw [updateEnergy_frame]; exact h
  exponent s _ h := by rw [latchExponent_frame]; exact h
  probe s _ h := by rw [latchProbe_frame]; exact h
  index _ _ h := h
  absent _ h := h
  inbox _ _ h := h
  latch _ _ h := h
  retarget _ _ h := h
  reset _ _ := fun _ => rfl

/-- Settles O58: the one part of an operation that counts is the tally. -/
theorem stepKeepsCountersAgree : Obligations.StepKeepsCountersAgree := by
  intro s t h hx
  exact countersAgree_kept.step hx h (fun _ => h) (fun _ => by rw [updateEnergy_frame]; exact h)

/-! ## The inbox -/

/-- No part of an operation touches the inbox. -/
theorem inbox_kept (q : List HostInput) : CheckKept (fun u => u.env.inbox = q) where
  enter _ _ h := h
  log _ _ h := h
  respond _ _ h := h
  world _ _ hq _ _ _ h := hq.trans h
  carry _ _ _ h := h
  tally _ _ h := h
  store _ _ h := h
  energy _ _ h := h
  exponent s _ h := by rw [latchExponent_frame]; exact h
  probe s _ h := by rw [latchProbe_frame]; exact h
  index _ _ h := h
  absent _ h := h

/-- Settles O10: outside IDLE only the reset signal leaves the inbox. -/
theorem requestWaitsWhileBusy : Obligations.RequestWaitsWhileBusy := by
  intro s t hb hx
  rcases step_cases hx with ⟨hr, rfl⟩ | ⟨-, c⟩
  · exact ⟨filter_takeReset s, fun hn => absurd ((resetDue_of_busy hb).mp hr) hn⟩
  · have hq : t.env.inbox = s.env.inbox :=
      (inbox_kept s.env.inbox).busyStep c hb rfl (fun _ => rfl) (fun _ => rfl)
    exact ⟨by rw [hq], fun _ => hq⟩

/-! ## Reset -/

/-- RAW reads zero everywhere after reset (10_state R38). -/
theorem readRaw_reset (k : Nat) : readRaw Arch.reset.raw k = 0 := by
  by_cases hk : k < rawCap
  · rw [readRaw_of_lt _ hk]
    simp [Arch.reset]
  · exact readRaw_of_ge _ (Nat.le_of_not_lt hk)

/-- Settles O15: all three give `Arch.reset`. -/
theorem resetValues : Obligations.ResetValues := by
  unfold Obligations.ResetValues
  intro atReset
  have h : atReset Arch.reset := by
    simp only [atReset, readRaw_reset, implies_true, true_and]
    simp [Arch.reset, Counters.zero, Counters.categories]
  exact ⟨h, fun s => ⟨_, rfl, h, rfl⟩,
    fun s hr => ⟨resetSignal (takeReset s), by simp [step, hr], h, rfl⟩⟩

/-- Settles O56: by the values of `State.reset`; the open configuration does not enter. -/
theorem resetMeetsTheInvariants : Obligations.ResetMeetsTheInvariants := by
  refine ⟨?_, ?_, ?_, ?_⟩
  · exact (tagsSound_iff _).mpr ⟨rfl, tagsHold_of_reset rfl⟩
  · exact fun _ => rfl
  · exact ⟨rfl, rfl, rfl⟩
  · exact ⟨rfl, by decide, rfl⟩

/-! ## What a step runs -/

/-- Settles O6: `step_of_word`, since every instruction gives a next state. -/
theorem stepRunsTheDecodedInstruction : Obligations.StepRunsTheDecodedInstruction := by
  intro s w i hr hf hd
  obtain ⟨t, ht⟩ := exec_next i (accept s)
  rw [step_of_word hr hf hd ht, ht]

/-- In IDLE the request at the head of the inbox is fetched. -/
theorem fetch_of_request {s : State} {w : Word} {rest : List HostInput} (hp : s.arch.phase = .idle)
    (hi : s.env.inbox = .request w :: rest) : fetch s = .word (.req16 w) := by
  simp [fetch, hp, hi]

/-- In IDLE the head of the inbox is what is taken. -/
theorem accept_of_idle {s : State} {x : HostInput} {rest : List HostInput} (hp : s.arch.phase = .idle)
    (hi : s.env.inbox = x :: rest) : accept s = { s with env := { s.env with inbox := rest } } := by
  simp [accept, hp, takeInput, hi]

/-- Settles O8: the request is fetched and taken, and after it the sequencer stands in IDLE with nothing to
go on with. -/
theorem stepRunsARequest : Obligations.StepRunsARequest := by
  intro s w i rest hp hi hd
  rw [stepRunsTheDecodedInstruction s _ i (resetDue_of_request hp hi) (fetch_of_request hp hi) hd,
    accept_of_idle hp hi, hp]
  obtain ⟨t, ht⟩ := exec_next i { s with env := { s.env with inbox := rest } }
  rw [ht]
  rfl

/-! ## What a request may write -/

/-- What CHECK writes of CMD and FETCHEXP is no part of the energy file. -/
theorem sameEnergyFile_of_arch {s t : State}
    (h : t.arch = { s.arch with
      expValid := t.arch.expValid, phase := t.arch.phase, curIdx := t.arch.curIdx }) :
    SameEnergyFile s t := by
  rw [SameEnergyFile, h]
  exact ⟨rfl, rfl, rfl, rfl, rfl, rfl, rfl, rfl, rfl⟩

/-- The bounds of 10_state R37 on an operation in progress, from `s` to `u`, by the operation and the row it
was begun with. -/
def WithinBounds (s u : State) : Prop :=
  u.flight.op = s.flight.op ∧ u.cfg = s.cfg ∧ u.arch.addr = s.arch.addr ∧ u.arch.curIdx = s.arch.curIdx
    ∧ (s.flight.op ≠ .fetchexp → u.arch.vexp = s.arch.vexp ∧ u.arch.expValid = s.arch.expValid)
    ∧ (s.flight.op ≠ .probe → u.arch.existsFlag = true → s.arch.existsFlag = true)
    ∧ ((curRow s).kind ≠ kindEnergy → SameEnergyFile s u)

theorem WithinBounds.refl (s : State) : WithinBounds s s :=
  ⟨rfl, rfl, rfl, rfl, fun _ => ⟨rfl, rfl⟩, fun _ h => h, fun _ => sameEnergyFile_of_arch rfl⟩

/-- A transaction stays within the bounds: a tally only clears `EXISTS` (40_transaction R128), and the energy
update, the exponent and the probe's flag are written where their row or operation is in progress. -/
theorem withinBounds_kept (s : State) : Kept (WithinBounds s) where
  enter _ _ h := h
  log _ _ h := h
  respond _ _ h := h
  world _ _ _ _ _ _ h := h
  carry _ _ hf h := ⟨hf.trans h.1, h.2⟩
  tally code u := by
    rintro ⟨hop, hcfg, haddr, hidx, hexp, hex, hen⟩
    refine ⟨hop, hcfg, haddr, hidx, hexp, fun ho he => hex ho ?_, hen⟩
    simp only [tally, tallyAs_arch, Bool.and_eq_true] at he
    exact he.1
  store _ _ h := h
  energy u hd := by
    rintro ⟨hop, hcfg, haddr, hidx, hexp, hex, -⟩
    have hrow : (curRow s).kind = kindEnergy := by
      simp only [energyDue, Bool.and_eq_true, beq_iff_eq, curRow, hcfg, hidx] at hd
      exact hd.2
    rw [updateEnergy_frame]
    exact ⟨hop, hcfg, haddr, hidx, hexp, hex, fun hk => absurd hrow hk⟩
  exponent u ho := by
    rintro ⟨hop, hcfg, haddr, hidx, -, hex, hen⟩
    rw [latchExponent_frame]
    exact ⟨hop, hcfg, haddr, hidx, fun hn => absurd (hop.symm.trans ho) hn, hex, hen⟩
  probe u ho := by
    rintro ⟨hop, hcfg, haddr, hidx, hexp, -, hen⟩
    rw [latchProbe_frame]
    exact ⟨hop, hcfg, haddr, hidx, hexp, fun hn => absurd (hop.symm.trans ho) hn, hen⟩

/-- A probe that stands in no read phase stores nothing, so it changes no data (43_management R172). -/
theorem sameData_of_probe {s u : State} (c : Comes s u) (hop : s.flight.op = .probe)
    (hrd : s.arch.phase ≠ .rd) : SameData s u := by
  rcases c with w | ⟨code, r, v, hv, rfl⟩
  · rw [SameData, w.arch]
  · rcases hv.arch with ⟨rfl, ha, -⟩ | ⟨-, -, hp, -⟩
    · have h := toTally_failure_sameData code v
      rw [SameData, ha] at h
      exact h
    · exact absurd (hp hop) hrd

/-- Within the bounds, and with no data changed, a probe writes `EXISTS`, `LAST_STATUS` and counters. -/
theorem probe_frame {s u : State} (hop : s.flight.op = .probe) (hb : WithinBounds s u) (hd : SameData s u) :
    u.arch = { s.arch with
      existsFlag := u.arch.existsFlag, lastStatus := u.arch.lastStatus, cnt := u.arch.cnt
      phase := u.arch.phase } := by
  obtain ⟨-, -, -, hidx, hexp, -, -⟩ := hb
  obtain ⟨-, hexp⟩ := hexp (by simp [hop])
  rw [SameData, hidx, hexp] at hd
  exact hd

/-- PROBE (43_management R172). -/
theorem probe_writes {s t : State} (hx : exec .probe s = .next t) :
    t.arch = { s.arch with
      existsFlag := t.arch.existsFlag, lastStatus := t.arch.lastStatus, cnt := t.arch.cnt
      phase := t.arch.phase } := by
  cases hx
  exact probe_frame (s := start .probe s) rfl ((withinBounds_kept _).transact (.refl _))
    (sameData_of_probe (comes_transact _) rfl (by simp))

/-- CMD (40_transaction R100 to R115): a refused one moves `PHASE` alone, the others stay within the bounds of
the row they latch. -/
theorem cmd_writes {i : BitVec 8} {s t : State} (hx : exec (.cmd i) s = .next t) :
    t.arch.addr = s.arch.addr ∧ t.arch.vexp = s.arch.vexp ∧ t.arch.expValid = s.arch.expValid
      ∧ (t.arch.existsFlag = true → s.arch.existsFlag = true)
      ∧ t.arch.curIdx = (if i.toNat < s.cfg.table.length then i else s.arch.curIdx)
      ∧ ((s.cfg.table.getD i.toNat default).kind ≠ kindEnergy → SameEnergyFile s t) := by
  rcases execCmd_cases hx with ⟨hi, rfl⟩ | latched
  · exact ⟨rfl, rfl, rfl, id, (if_neg (Nat.not_lt.mpr hi)).symm, fun _ => sameEnergyFile_of_arch rfl⟩
  · have hi : i.toNat < s.cfg.nCmds := latched.elim And.left And.left
    have hb : WithinBounds (start .cmd { s with arch := { s.arch with curIdx := i } }) t := by
      rcases latched with ⟨-, -, rfl⟩ | ⟨-, -, rfl⟩
      · exact (withinBounds_kept _).finish (.refl _)
      · exact (withinBounds_kept _).transact (.refl _)
    obtain ⟨-, -, haddr, hidx, hexp, hex, hen⟩ := hb
    obtain ⟨hvexp, hvalid⟩ := hexp (by simp)
    exact ⟨haddr, hvexp, hvalid, hex (by simp), hidx.trans (if_pos hi).symm, hen⟩

/-- FETCHEXP (43_management R173): the mode row of a well-formed table is no ENERGY row. -/
theorem fetchexp_writes {s t : State} (hx : exec .fetchexp s = .next t) :
    t.arch.addr = s.arch.addr ∧ (t.arch.existsFlag = true → s.arch.existsFlag = true)
      ∧ (s.cfg.wf = true → SameEnergyFile s t) := by
  cases hx
  rcases beginFetchexp_cases (start .fetchexp s) with ⟨-, e⟩ | ⟨i, hi, -, ⟨-, e⟩ | ⟨-, e⟩⟩ <;> rw [e]
  · exact ⟨rfl, id, fun _ => sameEnergyFile_of_arch rfl⟩
  · exact ⟨rfl, id, fun _ => sameEnergyFile_of_arch rfl⟩
  · obtain ⟨-, -, haddr, -, -, hex, hen⟩ := (withinBounds_kept _).transact
      (.refl { start .fetchexp s with arch := { (start .fetchexp s).arch with curIdx := i } })
    refine ⟨haddr, hex (by simp), fun hw => hen ?_⟩
    rw [curRow, start_cfg, mode_row_kind_of_wf hw hi]
    decide

/-- Settles O28: every transaction stays within its bounds, by operation and row. -/
theorem requestsWriteOnlyTheirElements : Obligations.RequestsWriteOnlyTheirElements := by
  refine ⟨fun s t hx => ?_, fun s t => probe_writes, fun s t i => cmd_writes, fun s t => fetchexp_writes,
    fun s t hw hx => ?_⟩
  · cases hx; rfl
  · rw [step_of_waiting hw] at hx
    cases hx
    have hb := resume_keeps_of_rests (withinBounds_kept s) hw.1 (.refl s)
    obtain ⟨-, -, haddr, hidx, hexp, hex, hen⟩ := id hb
    exact ⟨haddr, hidx, fun hc => hexp (by simp [hc]), hex, hen,
      fun hop hrd => probe_frame hop hb (sameData_of_probe (comes_resume hw) hop hrd)⟩

end Sys2Proof.Proofs

/-! PROOFS. The obligations on 20_memory: the order of the transport's calls, the configuration, and how operations
end or wait. Before them the rules they share: what a request comes to, and what a call adds to the history and
to the phases passed. -/

namespace Sys2Proof.Proofs

open Sys2Proof.Machine

/-! ## What a request comes to -/

/-- The six host requests (30_encoding R71). -/
def IsRequest (i : Instr) : Prop :=
  i = .probe ∨ i = .fetchexp ∨ i = .decode ∨ i = .reset ∨ (∃ a, i = .setaddr a) ∨ ∃ idx, i = .cmd idx

/-- Only requests come from request words. -/
theorem isRequest_of_decodeReq16 {w : Word} {i : Instr} (hd : decodeReq16 w = .ok i) : IsRequest i := by
  obtain ⟨-, hi⟩ := decodeReq16_cases hd
  unfold IsRequest
  rcases hi with ⟨-, -, rfl⟩ | ⟨-, -, rfl⟩ | ⟨-, rfl⟩ | ⟨-, -, rfl⟩ | ⟨-, -, rfl⟩ | ⟨-, -, rfl⟩ <;> simp

/-- A request passes CHECK and there, with nothing else moved in the world outside, answers or begins a
transaction. -/
theorem request_cases {i : Instr} {s t : State} (hi : IsRequest i) (hx : exec i s = .next t) :
    ∃ u, u.env = { s.env with phases := s.env.phases ++ [.check] }
      ∧ ((∃ r, t = finish r u) ∨ (u.arch.phase = .check ∧ t = transact u)) := by
  rcases hi with rfl | rfl | rfl | rfl | ⟨a, rfl⟩ | ⟨idx, rfl⟩
  · cases hx
    exact ⟨start .probe s, rfl, .inr ⟨rfl, rfl⟩⟩
  · cases hx
    rcases beginFetchexp_cases (start .fetchexp s) with ⟨-, e⟩ | ⟨_, -, -, ⟨-, e⟩ | ⟨-, e⟩⟩ <;> rw [e]
    · exact ⟨_, rfl, .inl ⟨_, rfl⟩⟩
    · exact ⟨_, rfl, .inl ⟨_, rfl⟩⟩
    · exact ⟨_, rfl, .inr ⟨rfl, rfl⟩⟩
  · cases hx
    exact ⟨start .decode s, rfl, .inl ⟨_, rfl⟩⟩
  · cases hx
    exact ⟨resetAll (enter .check s), rfl, .inl ⟨_, rfl⟩⟩
  · cases hx
    exact ⟨_, rfl, .inl ⟨_, rfl⟩⟩
  · rcases execCmd_cases hx with ⟨-, rfl⟩ | ⟨-, -, rfl⟩ | ⟨-, -, rfl⟩
    · exact ⟨_, rfl, .inl ⟨_, rfl⟩⟩
    · exact ⟨_, rfl, .inl ⟨_, rfl⟩⟩
    · exact ⟨_, rfl, .inr ⟨rfl, rfl⟩⟩

/-! ## Where the history stands in the protocol -/

/-- The history of `s` is a run of the protocol that has come to `b`. -/
def StandsAt (b : BusState) (s : State) : Prop := busRun .quiet s.env.history = some b

/-- The last event of a history is judged where the events before it have come to. -/
theorem busRun_concat (b : BusState) (es : List Event) (e : Event) :
    busRun b (es ++ [e]) = (busRun b es).bind (busNext e) := by
  induction es generalizing b with
  | nil => simp only [List.nil_append, busRun, Option.bind_some]; cases busNext e b <;> rfl
  | cons x es ih =>
    simp only [List.cons_append, busRun]
    cases busNext x b with
    | none => rfl
    | some b' => exact ih b'

/-- A call that the protocol allows goes on from where the history stood. -/
theorem StandsAt.log {b b' : BusState} {e : Event} {s : State} (h : StandsAt b s)
    (hn : busNext e b = some b') : StandsAt b' (logEvent e s) := by
  rw [StandsAt] at h ⊢
  rw [logEvent_env, busRun_concat, h, Option.bind_some, hn]

/-- Only the history counts. -/
theorem StandsAt.of_history {b : BusState} {s t : State} (h : StandsAt b s)
    (ht : t.env.history = s.env.history) : StandsAt b t := by
  rw [StandsAt, ht]
  exact h

/-- An answer drawn is not yet in the history (log 26). -/
theorem history_of_drawn {s t : State} (d : Drawn s t) : t.env.history = s.env.history := by
  rw [d.env_eq]

/-- After a read the bus is quiet, or the code of the failure is to be asked for (40_transaction R108, R109). -/
theorem standsAt_callRead {s : State} (h : StandsAt .held s) (n : Nat) :
    StandsAt (if readOk (callRead n s).1.1 (callRead n s).1.2 then .quiet else .asking) (callRead n s).2 :=
  (h.of_history (history_of_drawn (readAnswer_drawn s))).log rfl

/-- The byte is written under the handle of the write phase (20_memory R64). -/
theorem standsAt_callWriteByte {s : State} (h : StandsAt (.opened s.flight.handle) s) (b : Byte) :
    StandsAt (.written (callWriteByte b s).flight.handle (callWriteByte b s).flight.cw) (callWriteByte b s) := by
  have hq := history_of_drawn (countAnswer_drawn s)
  exact StandsAt.log (h.of_history (t := { (countAnswer s).2 with
    flight := { s.flight with cw := (countAnswer s).1 } }) hq) (if_pos rfl)

/-- The end of an operation makes no call. -/
theorem conclude_history (s : State) : (conclude s).env.history = s.env.history := by
  unfold conclude
  cases s.flight.op <;> simp [latchExponent_env, latchProbe_env]

/-- Nor does the tally. -/
theorem toTally_history (code : Byte) (r : Result) (s : State) :
    (toTally code r s).env.history = s.env.history := by
  unfold toTally atTally afterTally
  split <;> exact conclude_history _

/-! ## Every part of an operation keeps the order of calls -/

theorem stands_of_callOrder {s : State} (h : CallOrder s) : StandsAt (busExpected s) s := h.2.2

theorem not_probe_of_callOrder {s : State} (h : CallOrder s) (hp : s.arch.phase = .wrByte ∨ s.arch.phase = .rd) :
    s.flight.op ≠ .probe := h.2.1 hp

/-- Waiting changes nothing that the order of calls speaks of. -/
theorem callOrder_unstall {s : State} (h : CallOrder s) : CallOrder (unstall s) := h

/-- In IDLE the bus is quiet. -/
theorem callOrder_idle {s : State} (hp : s.arch.phase = .idle) (h : StandsAt .quiet s) : CallOrder s := by
  refine ⟨by simp [hp, restsIn], by simp [hp], ?_⟩
  rw [busExpected, hp]
  exact h

/-- The sequencer goes on to a call that the history has come to. -/
theorem callOrder_enter {p : Phase} {s : State} (hr : restsIn p = true)
    (hp : p = .wrByte ∨ p = .rd → s.flight.op ≠ .probe) (h : StandsAt (busExpected (enter p s)) s) :
    CallOrder (enter p s) := ⟨hr, hp, h⟩

/-- When the bus is quiet again, the tally ends the operation. -/
theorem callOrder_toTally {code : Byte} {r : Result} {s : State} (h : StandsAt .quiet s) :
    CallOrder (toTally code r s) :=
  callOrder_idle (toTally_phase code r s) (h.of_history (toTally_history code r s))

theorem callOrder_atRdStatus {s : State} (hp : s.arch.phase = .rdStatus) (h : CallOrder s) :
    CallOrder (atRdStatus s) := by
  have hb : StandsAt .asking s := by simpa [busExpected, hp] using stands_of_callOrder h
  unfold atRdStatus
  split
  · exact callOrder_unstall h
  · exact callOrder_toTally ((hb.of_history (history_of_drawn (statusAnswer_drawn s))).log rfl)

theorem callOrder_atRd {s : State} (hp : s.arch.phase = .rd) (h : CallOrder s) : CallOrder (atRd s) := by
  have hb : StandsAt .held s := by simpa [busExpected, hp] using stands_of_callOrder h
  have hread := standsAt_callRead hb (curRow s).len.toNat
  unfold atRd
  split
  · exact callOrder_unstall h
  · simp only
    split
    · next hok =>
      rw [if_pos hok] at hread
      exact callOrder_toTally hread
    · next hok =>
      rw [if_neg hok] at hread
      exact callOrder_atRdStatus rfl (callOrder_enter rfl (by simp) hread)

/-- The one close of a write phase: of a probe, of an incomplete write, or with the bus held (40_transaction
R105, R106, 43_management R172). -/
theorem callOrder_atWrClose {s : State} (hp : s.arch.phase = .wrClose) (h : CallOrder s) :
    CallOrder (atWrClose s) := by
  have hb := stands_of_callOrder h
  simp only [busExpected, hp] at hb
  unfold atWrClose
  split
  · exact callOrder_unstall h
  · split
    · next hop =>
      rw [if_pos hop] at hb
      have hc : StandsAt .asking (callCloseWrite true s) := hb.log (if_pos rfl)
      exact callOrder_atRdStatus rfl (callOrder_enter rfl (by simp) hc)
    · next hop =>
      rw [if_neg hop] at hb
      split
      · next hcw =>
        have hc : StandsAt .quiet (callCloseWrite true s) := hb.log (by simp [busNext, hcw])
        exact callOrder_toTally hc
      · next hcw =>
        have hc : StandsAt .held (callCloseWrite false s) := hb.log (by simp_all [busNext])
        exact callOrder_atRd rfl (callOrder_enter rfl (fun _ => hop) hc)

theorem callOrder_atWrByte {s : State} (hp : s.arch.phase = .wrByte) (h : CallOrder s) :
    CallOrder (atWrByte s) := by
  have hb : StandsAt (.opened s.flight.handle) s := by simpa [busExpected, hp] using stands_of_callOrder h
  have hop : (callWriteByte (curRow s).cmd s).flight.op ≠ .probe := by
    rw [(passes_callWriteByte _ s).op]
    exact not_probe_of_callOrder h (.inl hp)
  unfold atWrByte
  split
  · exact callOrder_unstall h
  · refine callOrder_atWrClose rfl (callOrder_enter rfl (by simp) ?_)
    simp only [busExpected, enter_arch, enter_flight, hop, if_false]
    exact standsAt_callWriteByte hb _

theorem callOrder_atWrOpen {s : State} (hp : s.arch.phase = .wrOpen) (h : CallOrder s) :
    CallOrder (atWrOpen s) := by
  have hb : StandsAt .settled s := by simpa [busExpected, hp] using stands_of_callOrder h
  have ho : StandsAt (.opened (callOpenWrite s).flight.handle) (callOpenWrite s) :=
    StandsAt.log (s := { s with
      flight := { s.flight with handle := { opening := s.env.opens } }
      env := { s.env with opens := s.env.opens + 1 } }) hb rfl
  unfold atWrOpen
  split
  · exact callOrder_unstall h
  · split
    · next hop =>
      refine callOrder_atWrClose rfl (callOrder_enter rfl (by simp) ?_)
      have hop' : (callOpenWrite s).flight.op = .probe := hop
      simp only [busExpected, enter_arch, enter_flight, hop', if_true]
      exact ho
    · next hop => exact callOrder_atWrByte rfl (callOrder_enter rfl (fun _ => hop) ho)

theorem callOrder_atSettle {s : State} (hp : s.arch.phase = .settle) (h : CallOrder s) :
    CallOrder (atSettle s) := by
  have hb : StandsAt .quiet s := by simpa [busExpected, hp] using stands_of_callOrder h
  have hc : StandsAt .settled (callSettle s) := hb.log rfl
  unfold atSettle
  split
  · exact callOrder_unstall h
  · exact callOrder_atWrOpen rfl (callOrder_enter rfl (by simp) hc)

/-- A transaction begins with a settle on a quiet bus (70 R205). -/
theorem callOrder_transact {s : State} (h : StandsAt .quiet s) : CallOrder (transact s) :=
  callOrder_atSettle rfl (callOrder_enter rfl (by simp) h)

/-- An operation that waited goes on in the order of calls (20_memory R69). -/
theorem callOrder_resume {s : State} (h : CallOrder s) : CallOrder (resume s) := by
  unfold resume
  cases hp : s.arch.phase with
  | idle => exact h
  | settle => exact callOrder_atSettle hp h
  | wrOpen => exact callOrder_atWrOpen hp h
  | wrByte => exact callOrder_atWrByte hp h
  | wrClose => exact callOrder_atWrClose hp h
  | rd => exact callOrder_atRd hp h
  | rdStatus => exact callOrder_atRdStatus hp h
  | check | store | tally | accum | done =>
    have hr := h.1
    simp [hp, restsIn] at hr

/-- A request taken while the bus is quiet makes its calls in order. -/
theorem callOrder_request {i : Instr} {s t : State} (hi : IsRequest i) (hx : exec i s = .next t)
    (h : StandsAt .quiet s) : CallOrder t := by
  obtain ⟨u, hu, ⟨r, rfl⟩ | ⟨-, rfl⟩⟩ := request_cases hi hx
  all_goals have hq : StandsAt .quiet u := h.of_history (by rw [hu])
  · exact callOrder_idle rfl (hq.of_history (by rw [finish_env]))
  · exact callOrder_transact hq

/-- Settles O60: from IDLE, where the bus is quiet, a request begins in order; from a call the operation goes on
in order; the reset signal makes the bus quiet wherever it acts. -/
theorem stepKeepsCallOrder : Obligations.StepKeepsCallOrder := by
  intro s t h hx
  have hidle (hp : s.arch.phase = .idle) : StandsAt .quiet s := by simpa [busExpected, hp] using stands_of_callOrder h
  rcases step_cases hx with ⟨-, rfl⟩ | ⟨-, c⟩
  · exact callOrder_idle rfl (StandsAt.log
      ((stands_of_callOrder h).of_history (t := enter .idle (resetAll (takeReset s))) rfl) rfl)
  · cases c with
    | rest _ _ ht => exact ht ▸ h
    | request w i rest hp _ hd ht => exact callOrder_request (isRequest_of_decodeReq16 hd) ht (hidle hp)
    | illegal w rest hp _ ht =>
      exact ht ▸ callOrder_idle rfl ((hidle hp).of_history (by rw [refuseRequest, refuse, finish_env]; rfl))
    | selected _ hp | badKind hp | tally hp | accum hp | notDue hp =>
      have hr := h.1
      simp [hp, restsIn] at hr
    | resume _ ht => exact ht ▸ callOrder_resume h

/-! ## The configuration -/

/-- No part of a step writes the configuration (20_memory R68). -/
theorem cfg_kept (c : Config) : StepKept (fun u => u.cfg = c) where
  enter _ _ h := h
  log _ _ h := h
  respond _ _ h := h
  world _ _ _ _ _ _ h := h
  carry _ _ _ h := h
  tally _ _ h := h
  store _ _ h := h
  energy _ _ h := h
  exponent s _ h := by rw [latchExponent_frame]; exact h
  probe s _ h := by rw [latchProbe_frame]; exact h
  index _ _ h := h
  absent _ h := h
  inbox _ _ h := h
  latch _ _ h := h
  retarget _ _ h := h
  reset _ h := h

/-- Settles O14: `cfg_kept`, in STORE and ACCUM too. -/
theorem noStepChangesTheConfiguration : Obligations.NoStepChangesTheConfiguration := by
  intro s t hx
  exact (cfg_kept s.cfg).step hx rfl (fun _ => rfl) (fun _ => rfl)

/-! ## The phases passed -/

/-- If `t` is in IDLE, what was passed since `s` is the rest of a finished operation's path. -/
def GoesForward (s t : State) : Prop :=
  t.arch.phase = .idle →
    ∃ path, t.env.phases = s.env.phases ++ path ∧ forwardPath (s.arch.phase :: path) = true

/-- A phase may be put before a path that goes forward from a later one. -/
theorem forwardPath_cons {p q : Phase} {path : List Phase} (hlt : p.rank < q.rank)
    (h : forwardPath (q :: path) = true) : forwardPath (p :: q :: path) = true := by
  unfold forwardPath
  split
  · rfl
  · next heq => cases heq; simp [hlt, h]
  · next hne => exact absurd rfl (hne p q path)

/-- The sequencer goes on to a later phase. -/
theorem GoesForward.of_enter {p : Phase} {s u t : State} (hu : u.env.phases = s.env.phases)
    (hlt : s.arch.phase.rank < p.rank) (h : GoesForward (enter p u) t) : GoesForward s t := by
  intro ht
  obtain ⟨path, hpath, hfwd⟩ := h ht
  exact ⟨p :: path, by simp [hpath, hu], forwardPath_cons hlt hfwd⟩

/-- Where the operation waits it has not come to IDLE. -/
theorem goesForward_unstall {s : State} (hb : s.arch.phase ≠ .idle) : GoesForward s (unstall s) :=
  fun h => absurd h hb

/-- Drawing an answer passes no phase. -/
theorem phases_of_drawn {s t : State} (d : Drawn s t) : t.env.phases = s.env.phases := by
  rw [d.env_eq]

/-- An operation ends through DONE in IDLE (10_state R34). -/
theorem conclude_phases (s : State) : (conclude s).env.phases = s.env.phases ++ [.done, .idle] := by
  unfold conclude
  cases s.flight.op <;> simp [latchExponent_env, latchProbe_env]

theorem goesForward_conclude {s u : State} (hu : u.env.phases = s.env.phases) (hlt : s.arch.phase.rank < 11) :
    GoesForward s (conclude u) :=
  fun _ => ⟨[.done, .idle], by rw [conclude_phases, hu], forwardPath_cons hlt rfl⟩

theorem goesForward_atTally {s : State} (hp : s.arch.phase = .tally) : GoesForward s (atTally s) := by
  unfold atTally afterTally
  split
  · exact .of_enter (u := tally s.flight.code s) rfl (p := .accum) (by simp [hp, Phase.rank])
      (goesForward_conclude rfl (by simp [Phase.rank]))
  · exact goesForward_conclude rfl (by simp [hp, Phase.rank])

theorem goesForward_toTally {code : Byte} {r : Result} {s u : State} (hu : u.env.phases = s.env.phases)
    (hlt : s.arch.phase.rank < 9) : GoesForward s (toTally code r u) :=
  .of_enter (p := .tally) hu hlt (goesForward_atTally rfl)

theorem goesForward_atStore {s : State} (hp : s.arch.phase = .store) : GoesForward s (atStore s) :=
  goesForward_toTally rfl (by simp [hp, Phase.rank])

theorem goesForward_atRdStatus {s : State} (hp : s.arch.phase = .rdStatus) : GoesForward s (atRdStatus s) := by
  unfold atRdStatus
  split
  · exact goesForward_unstall (by simp [hp])
  · exact goesForward_toTally (phases_of_drawn (statusAnswer_drawn s) :) (by simp [hp, Phase.rank])

theorem goesForward_atRd {s : State} (hp : s.arch.phase = .rd) : GoesForward s (atRd s) := by
  have hph : (callRead (curRow s).len.toNat s).2.env.phases = s.env.phases :=
    (phases_of_drawn (readAnswer_drawn s) :)
  unfold atRd
  split
  · exact goesForward_unstall (by simp [hp])
  · simp only
    split
    · exact .of_enter (p := .store) hph (by simp [hp, Phase.rank]) (goesForward_atStore rfl)
    · exact .of_enter hph (by simp [hp, Phase.rank]) (goesForward_atRdStatus rfl)

theorem goesForward_atWrClose {s : State} (hp : s.arch.phase = .wrClose) : GoesForward s (atWrClose s) := by
  unfold atWrClose
  split
  · exact goesForward_unstall (by simp [hp])
  · split
    · exact .of_enter rfl (by simp [hp, Phase.rank]) (goesForward_atRdStatus rfl)
    · split
      · exact goesForward_toTally rfl (by simp [hp, Phase.rank])
      · exact .of_enter rfl (by simp [hp, Phase.rank]) (goesForward_atRd rfl)

theorem goesForward_atWrByte {s : State} (hp : s.arch.phase = .wrByte) : GoesForward s (atWrByte s) := by
  unfold atWrByte
  split
  · exact goesForward_unstall (by simp [hp])
  · exact .of_enter (phases_of_drawn (countAnswer_drawn s)) (by simp [hp, Phase.rank])
      (goesForward_atWrClose rfl)

theorem goesForward_atWrOpen {s : State} (hp : s.arch.phase = .wrOpen) : GoesForward s (atWrOpen s) := by
  unfold atWrOpen
  split
  · exact goesForward_unstall (by simp [hp])
  · split
    · exact .of_enter rfl (by simp [hp, Phase.rank]) (goesForward_atWrClose rfl)
    · exact .of_enter rfl (by simp [hp, Phase.rank]) (goesForward_atWrByte rfl)

theorem goesForward_atSettle {s : State} (hp : s.arch.phase = .settle) : GoesForward s (atSettle s) := by
  unfold atSettle
  split
  · exact goesForward_unstall (by simp [hp])
  · exact .of_enter rfl (by simp [hp, Phase.rank]) (goesForward_atWrOpen rfl)

theorem goesForward_transact {s : State} (hp : s.arch.phase = .check) : GoesForward s (transact s) :=
  .of_enter rfl (by simp [hp, Phase.rank]) (goesForward_atSettle rfl)

/-! ## How operations end -/

/-- What has reached its tally ends: in IDLE, with one more record. -/
theorem ends_of_reaches {s v : State} {code : Byte} {r : Result} (h : Reaches s code r v) :
    (toTally code r v).arch.phase = .idle
      ∧ ∃ x, (toTally code r v).env.responses = s.env.responses ++ [x] := by
  obtain ⟨x, hx, -⟩ := toTally_responses code r v
  exact ⟨toTally_phase code r v, x, by rw [hx, h.responses]⟩

/-- Where no stall is to come a transaction does not wait (20_memory R69, D40). -/
theorem ends_of_comes {s t : State} (h : Comes s t) (hs : stallsToCome s = 0) :
    t.arch.phase = .idle ∧ ∃ x, t.env.responses = s.env.responses ++ [x] := by
  rcases h with w | ⟨code, r, v, hv, rfl⟩
  · exact absurd (w.stalls.trans hs) (Nat.succ_ne_zero _)
  · exact ends_of_reaches hv

/-- The premise D40 as a number. -/
theorem stallsToCome_eq_zero {s : State} (h : Responsive s) : stallsToCome s = 0 :=
  List.countP_eq_zero.mpr fun a ha => by simp [h a ha]

/-- Settles O30: a request that only answers ends at once; a transaction does not wait, by `ends_of_comes`, and has
gone forward, by `goesForward_transact`. -/
theorem requestsEndWhenTheTransportAnswers : Obligations.RequestsEndWhenTheTransportAnswers := by
  intro s i hs hi
  obtain ⟨t, hx⟩ := exec_next i s
  obtain ⟨u, hu, ⟨r, rfl⟩ | ⟨hp, rfl⟩⟩ := request_cases hi hx
  · exact ⟨_, r, [.check, .done, .idle], hx, rfl, by simp [hu], by simp [hu], rfl⟩
  · have hstalls : stallsToCome u = 0 := by
      rw [stallsToCome, hu]
      exact stallsToCome_eq_zero hs
    obtain ⟨hidle, r, hr⟩ := ends_of_comes (comes_transact u) hstalls
    obtain ⟨path, hpath, hfwd⟩ := goesForward_transact hp hidle
    rw [hp] at hfwd
    exact ⟨_, r, .check :: path, hx, hidle, by rw [hr, hu], by simp [hpath, hu],
      by simp [operationPath, hfwd]⟩

/-- One step, then the others. -/
theorem run_succ {s t : State} (h : step s = .next t) (k : Nat) :
    Host.Core.run Sys2Proof.core (k + 1) s = Host.Core.run Sys2Proof.core k t := by
  have hc : Sys2Proof.core.step s = .next t := h
  simp only [Host.Core.run, hc]

/-- What went on waiting waits: no reset signal has come. -/
theorem waiting_of_waits {s u : State} (h : Waits s u) (hn : .rst ∉ s.env.inbox) : Waiting u := by
  refine ⟨h.rests, h.busy, ?_⟩
  rw [← Bool.not_eq_true, resetDue_of_busy h.busy, h.inbox]
  exact hn

/-- Each step of waiting uses up one stall, and with none to come the operation ends. -/
theorem waiting_ends {n : Nat} : ∀ {s : State}, Waiting s → .rst ∉ s.env.inbox → stallsToCome s = n →
    ∃ k t, k ≤ n + 1 ∧ Host.Core.run Sys2Proof.core k s = .next t ∧ t.arch.phase = .idle := by
  induction n with
  | zero =>
    intro s w hn hs
    exact ⟨1, resume s, le_rfl, by rw [run_succ (step_of_waiting w)]; rfl, (ends_of_comes (comes_resume w) hs).1⟩
  | succ n ih =>
    intro s w hn hs
    rcases comes_resume w with hw | ⟨code, r, v, hv, he⟩
    · have hstalls : stallsToCome (resume s) = n := by
        have := hw.stalls
        omega
      obtain ⟨k, t, hk, hrun, ht⟩ := ih (waiting_of_waits hw hn) (hw.inbox ▸ hn) hstalls
      exact ⟨k + 1, t, by omega, by rw [run_succ (step_of_waiting w), hrun], ht⟩
    · exact ⟨1, resume s, by omega, by rw [run_succ (step_of_waiting w)]; rfl, he ▸ (ends_of_reaches hv).1⟩

/-- Settles O31: by induction on the stalls to come. -/
theorem waitingOperationEnds : Obligations.WaitingOperationEnds := by
  intro s hr hn hb
  have hd : resetDue s = false := by
    rw [← Bool.not_eq_true, resetDue_of_busy hb]
    exact hn
  exact waiting_ends ⟨hr, hb, hd⟩ hn rfl

/-! ## A CMD followed from call to call -/

/-- `u` stands at the call of phase `p` in the transaction begun in `s`, the byte accepted if it was written and
the read failed if it was made: `answers` are still to come, the calls before `p` are in the history (log 26),
and the handle and the count they gave are latched. -/
structure AtCall (s : State) (p : Phase) (answers : List Answer) (u : State) : Prop where
  arch : u.arch = { s.arch with phase := p }
  op : u.flight.op ≠ .probe
  cfg : u.cfg = s.cfg
  script : u.env.script = answers
  responses : u.env.responses = s.env.responses
  inbox : u.env.inbox = s.env.inbox
  history : u.env.history =
    s.env.history ++ (transactionCalls s (curRow s) [] 0x00 []).take (p.rank - 2)
  opens : p.rank ≤ 3 → u.env.opens = s.env.opens
  handle : 4 ≤ p.rank → u.flight.handle = { opening := s.env.opens }
  cw : 5 ≤ p.rank → u.flight.cw = 1

/-- From the call of phase `p` the transaction begun in `s` comes to `t`. -/
def ComesFrom (s : State) (p : Phase) (answers : List Answer) (t : State) : Prop :=
  ∃ u, AtCall s p answers u ∧ resume u = t

section Calls

variable {s t u : State} {p : Phase} {answers rest : List Answer}

theorem AtCall.phase (h : AtCall s p answers u) : u.arch.phase = p := by rw [h.arch]

theorem AtCall.curIdx (h : AtCall s p answers u) : u.arch.curIdx = s.arch.curIdx := by rw [h.arch]

theorem AtCall.addr (h : AtCall s p answers u) : u.arch.addr = s.arch.addr := by rw [h.arch]

theorem AtCall.curRow (h : AtCall s p answers u) : curRow u = curRow s := by
  rw [Machine.curRow, h.cfg, h.curIdx]
  rfl

/-- The call returns unless the next thing to come is its stall (log 4). -/
theorem AtCall.not_stalled (h : AtCall s p answers u) (hn : answers.head? ≠ some (.stall p)) :
    stalled u = false := by
  rw [← Bool.not_eq_true]
  intro hs
  obtain ⟨as, has⟩ := stalled_eq_true hs
  rw [h.script, h.phase] at has
  exact hn (by rw [has]; rfl)

/-- A transaction stands at its settle first. -/
theorem comesFrom_transact (hop : s.flight.op ≠ .probe) : ComesFrom s .settle s.env.script (transact s) :=
  ⟨enter .settle s, ⟨rfl, hop, rfl, rfl, rfl, rfl, by simp [Phase.rank], fun _ => rfl, by simp [Phase.rank],
    by simp [Phase.rank]⟩, rfl⟩

/-- The settle has been waited (40_transaction R103). -/
theorem ComesFrom.wrOpen (h : ComesFrom s .settle answers t) (hn : answers.head? ≠ some (.stall .settle)) :
    ComesFrom s .wrOpen answers t := by
  obtain ⟨u, hu, rfl⟩ := h
  refine ⟨enter .wrOpen (callSettle u), ?_, ?_⟩
  · exact ⟨by simp [hu.arch], hu.op, hu.cfg, hu.script, hu.responses, hu.inbox,
      by simp [hu.history, hu.cfg, transactionCalls, Phase.rank], fun _ => hu.opens (by decide),
      by simp [Phase.rank], by simp [Phase.rank]⟩
  · simp only [resume, hu.phase, enter_arch]
    exact (atSettle_of_not_stalled (hu.not_stalled hn)).symm

/-- The write phase is open (40_transaction R104). -/
theorem ComesFrom.wrByte (h : ComesFrom s .wrOpen answers t) (hn : answers.head? ≠ some (.stall .wrOpen)) :
    ComesFrom s .wrByte answers t := by
  obtain ⟨u, hu, rfl⟩ := h
  have hopens := hu.opens (by decide)
  refine ⟨enter .wrByte (callOpenWrite u), ?_, ?_⟩
  · exact ⟨by simp [hu.arch], hu.op, hu.cfg, hu.script, hu.responses, hu.inbox,
      by simp [hu.history, hu.addr, hopens, transactionCalls, Phase.rank], by simp [Phase.rank],
      fun _ => by simp [hopens], by simp [Phase.rank]⟩
  · simp only [resume, hu.phase, enter_arch]
    rw [atWrOpen_of_not_stalled (hu.not_stalled hn), if_neg hu.op]

/-- The command byte is accepted (40_transaction R104). -/
theorem ComesFrom.wrClose (h : ComesFrom s .wrByte (.cw 1 :: answers) t) : ComesFrom s .wrClose answers t := by
  obtain ⟨u, hu, rfl⟩ := h
  have hhandle := hu.handle (by decide)
  have hcount : countAnswer u = (1, { u with env := { u.env with script := answers } }) := by
    simp [countAnswer, hu.script]
  refine ⟨enter .wrClose (callWriteByte (Machine.curRow u).cmd u), ?_, ?_⟩
  · simp only [callWriteByte, hcount]
    exact ⟨by simp [hu.arch], hu.op, hu.cfg, rfl, hu.responses, hu.inbox,
      by simp [hu.history, hu.curRow, hhandle, transactionCalls, Phase.rank], by simp [Phase.rank],
      fun _ => hhandle, fun _ => rfl⟩
  · simp only [resume, hu.phase, enter_arch]
    exact (atWrByte_of_not_stalled (hu.not_stalled (by simp))).symm

/-- The write phase is closed with the bus held (40_transaction R106). -/
theorem ComesFrom.rd (h : ComesFrom s .wrClose answers t) (hn : answers.head? ≠ some (.stall .wrClose)) :
    ComesFrom s .rd answers t := by
  obtain ⟨u, hu, rfl⟩ := h
  have hhandle := hu.handle (by decide)
  have hcw := hu.cw (by decide)
  refine ⟨enter .rd (callCloseWrite false u), ?_, ?_⟩
  · exact ⟨by simp [hu.arch], hu.op, hu.cfg, hu.script, hu.responses, hu.inbox,
      by simp [hu.history, hhandle, transactionCalls, Phase.rank], by simp [Phase.rank],
      fun _ => hhandle, fun _ => hcw⟩
  · simp only [resume, hu.phase, enter_arch]
    rw [atWrClose_of_not_stalled (hu.not_stalled hn), if_neg hu.op, if_neg (not_not.mpr hcw)]

/-- The read brought no byte, so the status is to be asked for (40_transaction R108, R109). -/
theorem ComesFrom.rdStatus (h : ComesFrom s .rd (.rd [] 0x00 :: answers) t) :
    ComesFrom s .rdStatus answers t := by
  obtain ⟨u, hu, rfl⟩ := h
  have hread : readAnswer u = (([], 0x00), { u with env := { u.env with script := answers } }) := by
    simp [readAnswer, hu.script]
  refine ⟨enter .rdStatus (callRead (Machine.curRow u).len.toNat u).2, ?_, ?_⟩
  · simp only [callRead, hread]
    exact ⟨by simp [hu.arch], hu.op, hu.cfg, rfl, hu.responses, hu.inbox,
      by simp [hu.history, hu.addr, hu.curRow, transactionCalls, Phase.rank], by simp [Phase.rank],
      fun _ => hu.handle (by decide), fun _ => hu.cw (by decide)⟩
  · simp only [resume, hu.phase, enter_arch]
    rw [atRd_of_not_stalled (hu.not_stalled (by simp))]
    simp [callRead, hread, readOk]

/-- A call whose stall is next waits, and the stall is used up (log 4). -/
theorem ComesFrom.waits (h : ComesFrom s p (.stall p :: rest) t) (hr : restsIn p = true) (hb : p ≠ .idle) :
    AtCall s p rest t := by
  obtain ⟨u, hu, rfl⟩ := h
  have hs : stalled u = true := by simp [stalled, hu.script, hu.phase]
  have he : resume u = unstall u := by
    simp only [resume, hu.phase]
    cases p with
    | idle => exact absurd rfl hb
    | settle | wrOpen | wrByte | wrClose | rd | rdStatus => exact if_pos hs
    | check | store | tally | accum | done => cases hr
  rw [he]
  exact ⟨hu.arch, hu.op, hu.cfg, by simp [hu.script], hu.responses, hu.inbox, hu.history, hu.opens, hu.handle,
    hu.cw⟩

/-- Followed from its settle, a transaction waits at the call that the stall names. -/
theorem atCall_transact {before : List Answer} (hop : s.flight.op ≠ .probe)
    (hs : s.env.script = before ++ .stall p :: rest)
    (hp : (before = [] ∧ (p = .settle ∨ p = .wrOpen ∨ p = .wrByte))
      ∨ (before = [.cw 1] ∧ (p = .wrClose ∨ p = .rd))
      ∨ (before = [.cw 1, .rd [] 0x00] ∧ p = .rdStatus)) :
    AtCall s p rest (transact s) := by
  have h : ComesFrom s .settle (before ++ .stall p :: rest) (transact s) := hs ▸ comesFrom_transact hop
  rcases hp with ⟨rfl, rfl | rfl | rfl⟩ | ⟨rfl, rfl | rfl⟩ | ⟨rfl, rfl⟩
  · exact h.waits rfl (by simp)
  · exact (h.wrOpen (by simp)).waits rfl (by simp)
  · exact ((h.wrOpen (by simp)).wrByte (by simp)).waits rfl (by simp)
  · exact ((h.wrOpen (by simp)).wrByte (by simp)).wrClose.waits rfl (by simp)
  · exact (((h.wrOpen (by simp)).wrByte (by simp)).wrClose.rd (by simp)).waits rfl (by simp)
  · exact (((h.wrOpen (by simp)).wrByte (by simp)).wrClose.rd (by simp)).rdStatus.waits rfl (by simp)

end Calls

/-- A CMD of a valid row on a device that exists transacts (40_transaction R100 to R102). -/
theorem execCmd_of_exists {s : State} {i : BitVec 8} {row : CommandSpec}
    (hrow : s.cfg.table[i.toNat]? = some row) (he : s.arch.existsFlag = true) :
    exec (.cmd i) s = .next (transact (start .cmd { s with arch := { s.arch with curIdx := i } })) := by
  obtain ⟨t, hx⟩ := exec_next (.cmd i) s
  obtain ⟨hlt, -⟩ := List.getElem?_eq_some_iff.mp hrow
  rw [hx]
  rcases execCmd_cases hx with ⟨hn, -⟩ | ⟨-, hn, -⟩ | ⟨-, -, rfl⟩
  · exact absurd hlt (Nat.not_lt.mpr hn)
  · simp [he] at hn
  · rfl

/-- Settles O32: the calls of a transaction stand in the history in the order of their phases, from SETTLE on. -/
theorem stalledTransactionWaits : Obligations.StalledTransactionWaits := by
  intro s i row p before rest hrow he hs hp
  have h := atCall_transact (s := start .cmd { s with arch := { s.arch with curIdx := i } }) (by simp) hs hp
  have hr : curRow (start .cmd { s with arch := { s.arch with curIdx := i } }) = row := by
    simp [curRow, List.getD_eq_getElem?_getD, hrow]
  have hk : p.rank - 2 + 2 = p.rank := by
    rcases hp with ⟨-, rfl | rfl | rfl⟩ | ⟨-, rfl | rfl⟩ | ⟨-, rfl⟩ <;> rfl
  exact ⟨_, p.rank - 2, execCmd_of_exists hrow he, h.arch, h.script, h.responses, h.inbox, hr ▸ h.history, hk⟩

end Sys2Proof.Proofs

/-! PROOFS. The obligations on 30_encoding: the round trip of the four formats, the illegal request words and what
becomes of one, the one tally rule of a status code, and what construction refuses. -/

namespace Sys2Proof.Proofs

open Sys2Proof.Machine

/-! ## Decode and encode -/

/-- Decoding what `encode` writes gives the instruction back, whichever it is. -/
theorem decode_encode (i : Instr) : decode (encode i) = .ok i := by
  cases i with
  | setaddr a => exact Laws.RoundTrip.setaddr a
  | cmd i => exact Laws.RoundTrip.cmd i
  | energyUpdate len cmd => exact Laws.RoundTrip.energyUpdate len cmd
  | tallyUnknown0A low => exact Laws.RoundTrip.tallyUnknown0A low
  | tallyUnknown0C low => exact Laws.RoundTrip.tallyUnknown0C low
  | tallyUnknown10 low => exact Laws.RoundTrip.tallyUnknown10 low
  | tallyUnknown20 low => exact Laws.RoundTrip.tallyUnknown20 low
  | tallyUnknown40 low => exact Laws.RoundTrip.tallyUnknown40 low
  | tallyUnknown80 low => exact Laws.RoundTrip.tallyUnknown80 low
  | _ => rfl

/-- A request word whose `zero` field is 0 is its `op` and its `arg` (30_encoding R70). -/
theorem reqWord_toNat {w : Word} (hz : reqZero w = 0) :
    w.toNat = 4096 * (reqOp w).toNat + (reqArg w).toNat := by
  have hz' : w.toNat / 256 % 16 = 0 := by
    rw [← reqZero_toNat, hz]
    rfl
  rw [reqOp_toNat, reqArg_toNat]
  omega

/-- A request word that decodes is the encoding of what it decodes to (30_encoding R71, R72). -/
theorem encode_of_decodeReq16 {w : Word} {i : Instr} (h : decodeReq16 w = .ok i) : .req16 w = encode i := by
  obtain ⟨hz, hcase⟩ := decodeReq16_cases h
  have hw := reqWord_toNat hz
  rcases hcase with ⟨ho, ha, rfl⟩ | ⟨ho, ha, rfl⟩ | ⟨ho, rfl⟩ | ⟨ho, ha, rfl⟩ | ⟨ho, ha, rfl⟩ | ⟨ho, ha, rfl⟩
  case inl =>
    refine congrArg FetchWord.req16 (BitVec.eq_of_toNat_eq (hw.trans ?_))
    rw [ho, append_toNat, BitVec.extractLsb'_toNat, Nat.shiftRight_zero, Nat.mod_eq_of_lt ha]
    rfl
  case inr.inr.inl =>
    refine congrArg FetchWord.req16 (BitVec.eq_of_toNat_eq (hw.trans ?_))
    rw [ho, append_toNat]
    rfl
  all_goals
    rw [ho, ha] at hw
    exact congrArg FetchWord.req16 (BitVec.eq_of_toNat_eq hw)

/-- The tally rule of a code is encoded as that code (30_encoding R77). -/
theorem encode_of_tallyRule {i : Instr} {k : Category} {c : Byte} (h : tallyRule i = some (k, c)) :
    encode i = .st8 c := by
  cases i <;> cases h <;> rfl

/-- A word that decodes is the encoding of what it decodes to, format by format. -/
theorem encode_of_decode {w : FetchWord} {i : Instr} (h : decode w = .ok i) : w = encode i := by
  cases w with
  | req16 w => exact encode_of_decodeReq16 h
  | kind3 k =>
    rcases decodeKind3_cases h with
      ⟨rfl, rfl⟩ | ⟨rfl, rfl⟩ | ⟨rfl, rfl⟩ | ⟨rfl, rfl⟩ | ⟨rfl, rfl⟩ | ⟨rfl, rfl⟩ <;> rfl
  | ct16 w =>
    obtain ⟨hk, rfl⟩ := decodeCt16_cases h
    rw [encode, ← hk, Laws.pack_unpack]
  | st8 c =>
    cases h
    exact (encode_of_tallyRule (tallyRule_decodeSt8 c)).symm

/-- Settles O1: the round trip of every instruction, and of every word that decodes. -/
theorem decodeAgreesWithEncode : Obligations.DecodeAgreesWithEncode :=
  fun _ i => ⟨encode_of_decode, fun h => h ▸ decode_encode i⟩

/-- Settles O2: each word is the encoding of its instruction. -/
theorem specWordsDecode : Obligations.SpecWordsDecode := by
  simp only [Obligations.SpecWordsDecode, decodeAgreesWithEncode _ _]
  decide

/-! ## Illegal request words -/

/-- The legal request words by their fields: no operation has a nonzero `zero` field, SETADDR takes 7 bits, CMD
takes 8, the other operations none (30_encoding R70 to R73). -/
theorem decodeReq16_isOk_iff (w : Word) :
    (∃ i, decodeReq16 w = .ok i) ↔
      reqZero w = 0 ∧
        ((reqOp w = 1 ∧ (reqArg w).toNat < 128) ∨ reqOp w = 3
          ∨ ((reqOp w = 2 ∨ reqOp w = 4 ∨ reqOp w = 5 ∨ reqOp w = 15) ∧ reqArg w = 0)) := by
  constructor
  · rintro ⟨i, h⟩
    obtain ⟨hz, hcase⟩ := decodeReq16_cases h
    refine ⟨hz, ?_⟩
    rcases hcase with ⟨ho, ha, -⟩ | ⟨ho, ha, -⟩ | ⟨ho, -⟩ | ⟨ho, ha, -⟩ | ⟨ho, ha, -⟩ | ⟨ho, ha, -⟩ <;>
      simp [*]
  · rintro ⟨hz, ⟨ho, ha⟩ | ho | ⟨ho | ho | ho | ho, ha⟩⟩
    · exact ⟨.setaddr ((reqArg w).extractLsb' 0 7), by simp [decodeReq16, hz, ho, (argBit7_eq_zero _).mpr ha]⟩
    · exact ⟨.cmd (reqArg w), by simp [decodeReq16, hz, ho]⟩
    · exact ⟨.probe, by simp [decodeReq16, decodeNoArg, hz, ho, ha]⟩
    · exact ⟨.fetchexp, by simp [decodeReq16, decodeNoArg, hz, ho, ha]⟩
    · exact ⟨.decode, by simp [decodeReq16, decodeNoArg, hz, ho, ha]⟩
    · exact ⟨.reset, by simp [decodeReq16, decodeNoArg, hz, ho, ha]⟩

/-- Settles O3: `decodeReq16_isOk_iff` negated, with the fields as numbers. -/
theorem illegalRequestWords : Obligations.IllegalRequestWords := by
  intro w
  have hw := w.isLt
  have hlegal := decodeReq16_isOk_iff w
  simp only [← BitVec.toNat_inj, reqOp_toNat, reqZero_toNat, reqArg_toNat, BitVec.ofNat_eq_ofNat,
    BitVec.toNat_ofNat] at hlegal
  rw [← not_exists, decode, hlegal]
  simp only
  omega

/-- An illegal request word is refused without a phase of its own but CHECK (43_management R175). -/
theorem refuseRequest_eq_answered (s : State) :
    refuseRequest s = answered (resultOnly .refused) [.check, .done, .idle] s := by
  simp [refuseRequest, refuse, finish_eq_answered, answered]

/-- A fetched word that is no instruction is taken and rejected, by the phase it was fetched in. -/
theorem step_of_illegal {s : State} {w : FetchWord} (hr : resetDue s = false) (hf : fetch s = .word w)
    (hd : ∀ i, decode w ≠ .ok i) : step s = .next (reject s.arch.phase (accept s)) := by
  cases h : decode w with
  | ok i => exact absurd h (hd i)
  | error e => simp [step_of_not_resetDue hr, runFetched, hf, h]

/-- Settles O9: in IDLE a rejected word is a refused request. -/
theorem illegalRequestIsRefused : Obligations.IllegalRequestIsRefused := by
  intro s w rest hp hi hd
  rw [step_of_illegal (resetDue_of_request hp hi) (fetch_of_request hp hi) hd, hp, accept_of_idle hp hi, reject,
    refuseRequest_eq_answered]

/-! ## One tally rule for every status code -/

/-- A status code that the table of 30_encoding R77 puts in the category. -/
def codeOf : Category → Byte
  | .success => stSuccess
  | .oversize => stOversize
  | .addrNack => stAddrNack
  | .dataNack => stDataNack
  | .timeout => stTimeout
  | .arbLost => stArbLost
  | .bufOvf => stBufOvf
  | .wrIncomplete => stWrIncomplete
  | .misuse => stMisuse
  | .unknown => stRewritten

/-- Every category has an ST8 row (30_encoding R77). -/
theorem statusMap_codeOf (k : Category) : statusMap StatusMap.standard (codeOf k) = k := by
  cases k <;> decide

/-- Settles O4: the default map follows the table; under any map, the row is one of the category it gives, and
differs only in the code it latches. -/
theorem everyStatusCodeHasOneTallyRule : Obligations.EveryStatusCodeHasOneTallyRule := by
  refine ⟨fun code s hmap => exec_decodeSt8 (by simp [followsTable, hmap]), fun code s => ?_⟩
  have hrow := statusMap_codeOf (statusMap s.cfg.statusMap code)
  exact ⟨_, _, hrow, exec_of_tallyRule (tallyRule_decodeSt8 _) s, by rw [hrow]; rfl⟩

/-! ## Construction -/

/-- A row is well-formed when its kind is not reserved and its length is the one the kind prescribes (30_encoding
R76). -/
theorem row_wf_iff (r : CommandSpec) :
    r.wf = true ↔
      r.kind.toNat ≤ 5 ∧ 1 ≤ r.len.toNat ∧ r.len.toNat ≤ 17
        ∧ (r.kind.toNat = 0 → r.len.toNat = 1)
        ∧ (1 ≤ r.kind.toNat → r.kind.toNat ≤ 3 → r.len.toNat = 2)
        ∧ (r.kind.toNat = 4 → 3 ≤ r.len.toNat)
        ∧ (r.kind.toNat = 5 → r.len.toNat = 7) := by
  simp only [CommandSpec.wf, ← BitVec.toNat_inj, BitVec.toNat_ofNat]
  split_ifs <;> simp [maxLen, ← BitVec.toNat_inj] <;> omega

/-- The mode command, where there is one, is a row of kind BYTE (30_encoding R76). -/
theorem vmodeOk_iff (c : Config) :
    c.vmodeOk = true ↔
      ∀ i, c.idxVmode = some i → ∃ r, c.table[i.toNat]? = some r ∧ r.kind.toNat = 0 := by
  unfold Config.vmodeOk
  cases c.idxVmode with
  | none => simp
  | some i =>
    simp only [Option.some.injEq, forall_eq']
    cases c.table[i.toNat]? <;> simp [← BitVec.toNat_inj]

/-- A table with a VLINEAR row has a mode command (30_encoding R76). -/
theorem vlinearOk_iff (c : Config) :
    c.vlinearOk = true ↔ ((∃ r ∈ c.table, r.kind.toNat = 3) → c.idxVmode ≠ none) := by
  unfold Config.vlinearOk
  cases c.idxVmode <;> simp [← BitVec.toNat_inj]

/-- A well-formed configuration, check by check (30_encoding R76, 00_scope R7). -/
theorem config_wf_iff (c : Config) :
    c.wf = true ↔
      1 ≤ c.table.length ∧ c.table.length ≤ 256 ∧ (∀ r ∈ c.table, r.wf = true) ∧ c.vmodeOk = true
        ∧ c.vlinearOk = true ∧ 1 ≤ c.ceiling ∧ c.ceiling ≤ 65536 ∧ 0 < c.tSettle := by
  simp [Config.wf, and_assoc]

/-- A well-formed configuration gives the reset state with it (30_encoding R76). -/
theorem construct_of_wf {c : Config} (h : c.wf = true) : construct c = .next { State.reset with cfg := c } :=
  if_pos h

/-- An ill-formed configuration is refused (30_encoding R76). -/
theorem construct_of_not_wf {c : Config} (h : ¬ c.wf = true) : construct c = .refused .illFormedTable :=
  if_neg h

/-- Settles O5: each ill-formed configuration fails the check of `config_wf_iff` that reads it. -/
theorem constructionRefusesIllFormedTables : Obligations.ConstructionRefusesIllFormedTables := by
  refine ⟨?row, ?vlinear, ?modeKind, ?modeOutside, ?parameters, ?accepted⟩
  case row =>
    intro c r hr hbad
    refine construct_of_not_wf fun h => ?_
    obtain ⟨-, -, hrows, -⟩ := (config_wf_iff c).mp h
    have hwf := (row_wf_iff r).mp (hrows r hr)
    omega
  case vlinear =>
    intro c r hr hk hnone
    refine construct_of_not_wf fun h => ?_
    obtain ⟨-, -, -, -, hv, -⟩ := (config_wf_iff c).mp h
    exact (vlinearOk_iff c).mp hv ⟨r, hr, hk⟩ hnone
  case modeKind =>
    intro c i r hi hr hk
    refine construct_of_not_wf fun h => hk ?_
    obtain ⟨-, hm⟩ := rows_and_vmode_of_wf h
    obtain ⟨r', hr', hk'⟩ := (vmodeOk_iff c).mp hm i hi
    rwa [Option.some.inj (hr.symm.trans hr')]
  case modeOutside =>
    intro c i hi hlen
    refine construct_of_not_wf fun h => ?_
    obtain ⟨-, hm⟩ := rows_and_vmode_of_wf h
    obtain ⟨r, hr, -⟩ := (vmodeOk_iff c).mp hm i hi
    rw [List.getElem?_eq_none hlen] at hr
    cases hr
  case parameters =>
    intro c hbad
    refine construct_of_not_wf fun h => ?_
    obtain ⟨hmin, hmax, -, -, -, hparams⟩ := (config_wf_iff c).mp h
    rcases hbad with htable | hbad
    · simp [htable] at hmin
    · omega
  case accepted =>
    intro c hmin hmax hrows hmode hvlinear hceil hceil' hsettle
    exact construct_of_wf ((config_wf_iff c).mpr
      ⟨hmin, hmax, fun r hr => (row_wf_iff r).mpr (hrows r hr), (vmodeOk_iff c).mpr hmode,
        (vlinearOk_iff c).mpr hvlinear, hceil, hceil', hsettle⟩)

end Sys2Proof.Proofs

/-! PROOFS. The obligations on 40_transaction: the tally rules, one tally per transaction, who raises `EXISTS`, and
what a CMD comes to by the transport's answers. Before them the rules of a tally and of a transaction followed to
its tally. -/

namespace Sys2Proof.Proofs

open Sys2Proof.Machine

/-! ## Tally rules -/

/-- The tally of a success (40_transaction R117). -/
theorem tallyAs_success (code : Byte) (s : State) :
    tallyAs .success code s = { s with arch := { s.arch with
      lastStatus := code, cnt := { s.arch.cnt with totalOk := satinc s.arch.cnt.totalOk } } } := by
  simp [tallyAs, bumpTotal, bumpCategory, clearsExists]

/-- The tally of a failure that leaves `EXISTS` alone (40_transaction R127, R128). -/
theorem tallyAs_of_keeps {k : Category} (hk : k ≠ .success) (hc : clearsExists k = false) (code : Byte)
    (s : State) :
    tallyAs k code s = { s with arch := { s.arch with
      lastStatus := code
      cnt := { bumpCategory k s.arch.cnt with totalErr := satinc s.arch.cnt.totalErr } } } := by
  simp [tallyAs, bumpTotal, hk, hc, bumpCategory_totalErr]

/-- The tally of a failure that clears `EXISTS` (40_transaction R127, R128). -/
theorem tallyAs_of_clears {k : Category} (hk : k ≠ .success) (hc : clearsExists k = true) (code : Byte)
    (s : State) :
    tallyAs k code s = { s with arch := { s.arch with
      lastStatus := code, existsFlag := false
      cnt := { bumpCategory k s.arch.cnt with totalErr := satinc s.arch.cnt.totalErr } } } := by
  simp [tallyAs, bumpTotal, hk, hc, bumpCategory_totalErr]

/-- An ST8 row whose category leaves `EXISTS` alone. -/
theorem exec_of_keeping_rule {i : Instr} {k : Category} {code : Byte} (h : tallyRule i = some (k, code))
    (hk : k ≠ .success) (hc : clearsExists k = false) (s : State) :
    exec i s = .next { s with arch := { s.arch with
      lastStatus := code
      cnt := { bumpCategory k s.arch.cnt with totalErr := satinc s.arch.cnt.totalErr } } } := by
  rw [exec_of_tallyRule h, tallyAs_of_keeps hk hc]

/-- An ST8 row whose category clears `EXISTS`. -/
theorem exec_of_clearing_rule {i : Instr} {k : Category} {code : Byte} (h : tallyRule i = some (k, code))
    (hk : k ≠ .success) (hc : clearsExists k = true) (s : State) :
    exec i s = .next { s with arch := { s.arch with
      lastStatus := code, existsFlag := false
      cnt := { bumpCategory k s.arch.cnt with totalErr := satinc s.arch.cnt.totalErr } } } := by
  rw [exec_of_tallyRule h, tallyAs_of_clears hk hc]

/-- Settles O47: its rule is `tallyAs .success`. -/
theorem successTally : Obligations.SuccessTally := by
  intro s
  rw [exec_of_tallyRule rfl, tallyAs_success]
  rfl

/-- Settles O48: the five categories are failures that leave `EXISTS` alone. -/
theorem transientTallies : Obligations.TransientTallies := by
  intro s
  exact ⟨exec_of_keeping_rule (k := .oversize) rfl (by decide) rfl s,
    exec_of_keeping_rule (k := .dataNack) rfl (by decide) rfl s,
    exec_of_keeping_rule (k := .bufOvf) rfl (by decide) rfl s,
    exec_of_keeping_rule (k := .wrIncomplete) rfl (by decide) rfl s,
    exec_of_keeping_rule (k := .misuse) rfl (by decide) rfl s⟩

/-- Settles O49: the three categories are failures that clear `EXISTS`. -/
theorem existenceClearingTallies : Obligations.ExistenceClearingTallies := by
  intro s
  exact ⟨exec_of_clearing_rule (k := .addrNack) rfl (by decide) rfl s,
    exec_of_clearing_rule (k := .timeout) rfl (by decide) rfl s,
    exec_of_clearing_rule (k := .arbLost) rfl (by decide) rfl s⟩

/-- The code of a row with free bits, as a number. -/
theorem append_eq_ofNat {m n : Nat} (a : BitVec m) (b : BitVec n) :
    a ++ b = BitVec.ofNat (m + n) (2 ^ n * a.toNat + b.toNat) := by
  rw [← append_toNat, BitVec.ofNat_toNat, BitVec.setWidth_eq]

/-- Settles O50: each row counts as unknown the code that its fixed bits and its free bits make. -/
theorem unknownTallies : Obligations.UnknownTallies := by
  intro s
  have unknown {i : Instr} {code : Byte} (h : tallyRule i = some (.unknown, code)) :=
    exec_of_keeping_rule h (by decide) rfl s
  refine ⟨unknown rfl, ?r0A, ?r0C, ?r10, ?r20, ?r40, ?r80⟩ <;> intro low
  all_goals
    rw [unknown rfl, append_eq_ofNat]
    rfl

/-- `ST_SUCCESS` is the one code of a success in the table of 30_encoding R77. -/
theorem standard_success_iff : ∀ c : Byte, statusMap StatusMap.standard c = .success ↔ c = 0x00#8 := by decide

/-- The codes of the table of 30_encoding R77 that clear `EXISTS` (40_transaction R128). -/
theorem clearsExists_standard : ∀ c : Byte, clearsExists (statusMap StatusMap.standard c) =
    (c == 0x02#8 || c == 0x04#8 || c == 0x05#8) := by decide

/-- The total of successes is raised by a success only (40_transaction R127). -/
theorem bumpTotal_totalOk (k : Category) (c : Counters) :
    (bumpTotal k c).totalOk = if k = .success then satinc c.totalOk else c.totalOk := by
  unfold bumpTotal
  split <;> rfl

/-- A category counter is no total. -/
theorem bumpCategory_totalOk (k : Category) (c : Counters) : (bumpCategory k c).totalOk = c.totalOk := by
  cases k <;> rfl

/-- What a tally makes of the total of successes. -/
theorem tallyAs_totalOk {s : State} (k : Category) (code : Byte) (h : s.arch.cnt.totalOk.toNat < counterMax) :
    (tallyAs k code s).arch.cnt.totalOk.toNat =
      s.arch.cnt.totalOk.toNat + (if k = .success then 1 else 0) := by
  rw [tallyAs_arch, bumpTotal_totalOk, bumpCategory_totalOk]
  split
  · exact satinc_of_lt h
  · rfl

/-- What a tally makes of the total of errors. -/
theorem tallyAs_totalErr {s : State} (k : Category) (code : Byte) (h : s.arch.cnt.totalErr.toNat < counterMax) :
    (tallyAs k code s).arch.cnt.totalErr.toNat =
      s.arch.cnt.totalErr.toNat + (if k = .success then 0 else 1) := by
  rw [tallyAs_arch, bumpTotal_totalErr, bumpCategory_totalErr]
  split
  · rfl
  · exact satinc_of_lt h

/-- Raising one entry of a list of counters, read by index. -/
theorem getD_raised {before after : List Counter} {x : Counter} (hx : x.toNat < counterMax) (j : Nat) :
    ((before ++ satinc x :: after).getD j 0).toNat =
      ((before ++ x :: after).getD j 0).toNat + (if j = before.length then 1 else 0) := by
  rcases lt_trichotomy j before.length with hj | rfl | hj
  · simp [List.getElem?_append_left hj, hj.ne]
  · simp [satinc_of_lt hx]
  · obtain ⟨d, rfl⟩ := Nat.exists_eq_add_of_lt hj
    simp [List.getElem?_append_right, Nat.add_assoc]

/-- A tally raises one of the nine category counters on a failure, and none on a success (40_transaction
R127). -/
theorem tallyAs_categories {s : State} (k : Category) (code : Byte)
    (h : ∀ x ∈ s.arch.cnt.categories, x.toNat < counterMax) :
    ∃ n, n < 9 ∧ ∀ j, ((tallyAs k code s).arch.cnt.categories.getD j 0).toNat =
      (s.arch.cnt.categories.getD j 0).toNat + (if j = n ∧ k ≠ .success then 1 else 0) := by
  simp only [tallyAs_arch, bumpTotal_categories]
  by_cases hk : k = .success
  · subst hk
    exact ⟨0, by omega, fun j => by simp [bumpCategory]⟩
  · obtain ⟨before, x, after, hc, hb⟩ := bumpCategory_categories hk s.arch.cnt
    have hlen : (before ++ x :: after).length = 9 := hc ▸ rfl
    rw [List.length_append, List.length_cons] at hlen
    refine ⟨before.length, by omega, fun j => ?_⟩
    rw [hb, getD_raised (h x (by simp [hc])), hc]
    simp [hk]

/-- Settles O51: the row of a code tallies it by its category in the table, and a failure's category has one
counter. -/
theorem exactlyOneTallyLaw : Obligations.ExactlyOneTallyLaw := by
  intro code s hcat herr hok
  have hiff := standard_success_iff code
  obtain ⟨n, hn, hcats⟩ := tallyAs_categories (statusMap StatusMap.standard code) code hcat
  refine ⟨_, exec_of_tallyRule (tallyRule_decodeSt8 code) s, ?_, ?_, ⟨n, hn, fun j => ?_⟩, rfl, ?_, rfl⟩
  · rw [tallyAs_totalOk _ _ hok, if_congr hiff rfl rfl]
  · rw [tallyAs_totalErr _ _ herr, if_congr hiff rfl rfl]
  · rw [hcats j, if_congr (and_congr_right fun _ => not_congr hiff) rfl rfl]
  · rw [tallyAs_arch, clearsExists_standard]

/-! ## One tally per transaction -/

/-- A tally raises the two totals by one in all (40_transaction R127). -/
theorem tally_totals {s : State} (code : Byte) (hok : s.arch.cnt.totalOk.toNat < counterMax)
    (herr : s.arch.cnt.totalErr.toNat < counterMax) :
    (tally code s).arch.cnt.totalOk.toNat + (tally code s).arch.cnt.totalErr.toNat =
      s.arch.cnt.totalOk.toNat + s.arch.cnt.totalErr.toNat + 1 := by
  rw [tally, tallyAs_totalOk _ _ hok, tallyAs_totalErr _ _ herr]
  split <;> omega

/-- Before its tally a transaction has counted nothing. -/
theorem cnt_of_reaches {s v : State} {code : Byte} {r : Result} (h : Reaches s code r v) :
    v.arch.cnt = s.arch.cnt := by
  rcases h.arch with ⟨-, ha, -⟩ | ⟨-, -, -, bytes, -, ha⟩
  · rw [ha]
  · rw [ha]
    rfl

/-- A transaction ends in Success or Failure (40_transaction R114). -/
theorem result_of_reaches {s v : State} {code : Byte} {r : Result} (h : Reaches s code r v) :
    r = .success ∨ r = .failure := by
  rcases h.arch with ⟨hr, -⟩ | ⟨hr, -⟩
  · exact .inr hr
  · exact .inl hr

/-- What has reached its tally raises the totals by one in all. -/
theorem totals_of_reaches {s v : State} {code : Byte} {r : Result} (h : Reaches s code r v)
    (hok : s.arch.cnt.totalOk.toNat < counterMax) (herr : s.arch.cnt.totalErr.toNat < counterMax) :
    (toTally code r v).arch.cnt.totalOk.toNat + (toTally code r v).arch.cnt.totalErr.toNat =
      s.arch.cnt.totalOk.toNat + s.arch.cnt.totalErr.toNat + 1 := by
  rw [← cnt_of_reaches h] at hok herr ⊢
  rw [toTally_cnt, tally_totals code hok herr]

/-- A transaction of a CMD or a FETCHEXP that has answered ended in Success or Failure, and made one tally. -/
theorem totals_of_comes {s t : State} {r : Result} (h : Comes s t) (hop : s.flight.op ≠ .probe)
    (hresp : t.env.responses = s.env.responses ++ [resultOnly r])
    (hok : s.arch.cnt.totalOk.toNat < counterMax) (herr : s.arch.cnt.totalErr.toNat < counterMax) :
    t.arch.cnt.totalOk.toNat + t.arch.cnt.totalErr.toNat =
      s.arch.cnt.totalOk.toNat + s.arch.cnt.totalErr.toNat
        + (if r = .success ∨ r = .failure then 1 else 0) := by
  rcases h with w | ⟨code, r', v, hv, rfl⟩
  · rw [w.responses] at hresp
    simp at hresp
  · obtain ⟨x, hx, hxr⟩ := toTally_responses code r' v
    rw [hx, hv.responses, hxr (by rwa [hv.op])] at hresp
    have hr : r' = r := by simpa [resultOnly] using hresp
    rw [totals_of_reaches hv hok herr, if_pos (hr ▸ result_of_reaches hv)]

/-- An operation that is refused or absent in CHECK makes no tally (60_exceptions R186). -/
theorem totals_of_finish {s u : State} {r r' : Result} (hcnt : u.arch.cnt = s.arch.cnt)
    (hu : u.env.responses = s.env.responses) (hr : ¬ (r' = .success ∨ r' = .failure))
    (hresp : (finish (resultOnly r') u).env.responses = s.env.responses ++ [resultOnly r]) :
    (finish (resultOnly r') u).arch.cnt.totalOk.toNat + (finish (resultOnly r') u).arch.cnt.totalErr.toNat =
      s.arch.cnt.totalOk.toNat + s.arch.cnt.totalErr.toNat
        + (if r = .success ∨ r = .failure then 1 else 0) := by
  have hrr : r' = r := by simpa [hu, resultOnly] using hresp
  rw [finish_arch, if_neg (hrr ▸ hr)]
  simp only [hcnt, Nat.add_zero]

/-- Settles O29: refused and absent operations leave from CHECK untallied; a transaction waits or reaches its one
tally. -/
theorem oneTallyPerTransaction : Obligations.OneTallyPerTransaction := by
  constructor
  · rintro s t i r (⟨idx, rfl⟩ | rfl) hx hresp hok herr
    · rcases execCmd_cases hx with ⟨-, rfl⟩ | ⟨-, -, rfl⟩ | ⟨-, -, rfl⟩
      · exact totals_of_finish rfl rfl (by simp) hresp
      · exact totals_of_finish rfl rfl (by simp) hresp
      · exact totals_of_comes (s := start .cmd { s with arch := { s.arch with curIdx := idx } })
          (comes_transact _) (by simp) hresp hok herr
    · cases hx
      rcases beginFetchexp_cases (start .fetchexp s) with ⟨-, e⟩ | ⟨i, -, -, ⟨-, e⟩ | ⟨-, e⟩⟩ <;>
        rw [e] at hresp ⊢
      · exact totals_of_finish rfl rfl (by simp) hresp
      · exact totals_of_finish rfl rfl (by simp) hresp
      · exact totals_of_comes
          (s := { start .fetchexp s with arch := { (start .fetchexp s).arch with curIdx := i } })
          (comes_transact _) (by simp) hresp hok herr
  · intro s t hw hx hok herr
    rw [step_of_waiting hw] at hx
    cases hx
    rcases comes_resume hw with w | ⟨code, r, v, hv, he⟩
    · rw [if_neg w.busy, w.arch]
      rfl
    · rw [he, totals_of_reaches hv hok herr, if_pos (toTally_phase code r v)]

/-! ## Who raises EXISTS -/

/-- If `EXISTS` is 1, the operation latched is a probe whose code was `ST_SUCCESS` (log 8). -/
def ExistsByProbe (s : State) : Prop :=
  s.arch.existsFlag = true → s.flight.op = .probe ∧ s.flight.code = stSuccess

theorem existsByProbe_of_absent {s : State} (h : s.arch.existsFlag = false) : ExistsByProbe s :=
  fun he => absurd he (by simp [h])

/-- The end of an operation sets `EXISTS` for a successful probe only (43_management R172). -/
theorem existsByProbe_conclude {s : State} (h : s.arch.existsFlag = false) : ExistsByProbe (conclude s) := by
  unfold conclude
  cases hop : s.flight.op with
  | cmd | decode => exact existsByProbe_of_absent h
  | fetchexp =>
    rw [latchExponent_frame]
    exact existsByProbe_of_absent h
  | probe =>
    simp only [latchProbe]
    split
    · next hcode => exact fun _ => ⟨hop, hcode⟩
    · exact existsByProbe_of_absent h

/-- The accumulator does not touch `EXISTS`. -/
theorem existsByProbe_atAccum {s : State} (h : s.arch.existsFlag = false) : ExistsByProbe (atAccum s) :=
  existsByProbe_conclude (by rw [updateEnergy_frame]; exact h)

/-- A tally never raises `EXISTS` (40_transaction R128). -/
theorem existsByProbe_atTally {s : State} (h : s.arch.existsFlag = false) : ExistsByProbe (atTally s) := by
  have ht : (tally s.flight.code s).arch.existsFlag = false := by simp [tally, h]
  unfold atTally afterTally
  split
  · exact existsByProbe_atAccum ht
  · exact existsByProbe_conclude ht

theorem existsByProbe_toTally {code : Byte} {r : Result} {s : State} (h : s.arch.existsFlag = false) :
    ExistsByProbe (toTally code r s) := existsByProbe_atTally h

/-- Up to its tally a transaction does not touch `EXISTS`. -/
theorem existsByProbe_of_comes {s t : State} (c : Comes s t) (h : s.arch.existsFlag = false) :
    ExistsByProbe t := by
  rcases c with w | ⟨code, r, v, hv, rfl⟩
  · exact existsByProbe_of_absent (by rw [w.arch]; exact h)
  · refine existsByProbe_toTally ?_
    rcases hv.arch with ⟨-, ha, -⟩ | ⟨-, -, -, bytes, -, ha⟩ <;> rw [ha] <;> exact h

theorem existsByProbe_beginFetchexp {s : State} (h : s.arch.existsFlag = false) :
    ExistsByProbe (beginFetchexp s) := by
  rcases beginFetchexp_cases s with ⟨-, e⟩ | ⟨_, -, -, ⟨-, e⟩ | ⟨-, e⟩⟩ <;> rw [e]
  · exact existsByProbe_of_absent h
  · exact existsByProbe_of_absent h
  · exact existsByProbe_of_comes (comes_transact _) h

theorem existsByProbe_checkCmd {s : State} (h : s.arch.existsFlag = false) : ExistsByProbe (checkCmd s) := by
  rcases checkCmd_cases s with ⟨-, e⟩ | ⟨-, -, e⟩ | ⟨-, -, e⟩ <;> rw [e]
  · exact existsByProbe_of_absent h
  · exact existsByProbe_of_absent h
  · exact existsByProbe_of_comes (comes_transact _) h

/-- No request raises `EXISTS` but PROBE. -/
theorem existsByProbe_request {i : Instr} {s t : State} (hi : IsRequest i) (hx : exec i s = .next t)
    (h : s.arch.existsFlag = false) : ExistsByProbe t := by
  rcases hi with rfl | rfl | rfl | rfl | ⟨a, rfl⟩ | ⟨idx, rfl⟩
  · cases hx
    exact existsByProbe_of_comes (comes_transact _) h
  · cases hx
    exact existsByProbe_beginFetchexp h
  · cases hx
    exact existsByProbe_of_absent h
  · cases hx
    exact existsByProbe_of_absent rfl
  · cases hx
    exact existsByProbe_of_absent rfl
  · rcases execCmd_cases hx with ⟨-, rfl⟩ | ⟨-, -, rfl⟩ | ⟨-, -, rfl⟩
    · exact existsByProbe_of_absent h
    · exact existsByProbe_of_absent h
    · exact existsByProbe_of_comes (comes_transact _) h

/-- An operation in progress raises `EXISTS` as a probe only, from whatever phase it goes on. -/
theorem existsByProbe_resume {s : State} (hr : resetDue s = false) (hb : s.arch.phase ≠ .idle)
    (h : s.arch.existsFlag = false) : ExistsByProbe (resume s) := by
  cases hrest : restsIn s.arch.phase with
  | true => exact existsByProbe_of_comes (comes_resume ⟨hrest, hb, hr⟩) h
  | false =>
    unfold resume
    cases hp : s.arch.phase with
    | check =>
      cases hop : s.flight.op with
      | cmd => exact existsByProbe_checkCmd h
      | fetchexp => exact existsByProbe_beginFetchexp h
      | probe => exact existsByProbe_of_comes (comes_transact _) h
      | decode => exact existsByProbe_of_absent h
    | store => exact existsByProbe_toTally h
    | tally => exact existsByProbe_atTally h
    | accum => exact existsByProbe_atAccum h
    | done => exact existsByProbe_of_absent h
    | idle | settle | wrOpen | wrByte | wrClose | rd | rdStatus => simp [hp, restsIn] at hrest

/-- Settles O19: `ExistsByProbe` after each case of a step from a state with `EXISTS` 0. -/
theorem onlyASuccessfulProbeRaisesExists : Obligations.OnlyASuccessfulProbeRaisesExists := by
  intro s t hx ht h
  suffices ExistsByProbe t from this ht
  rcases step_cases hx with ⟨-, rfl⟩ | ⟨hr, c⟩
  · exact existsByProbe_of_absent rfl
  · cases c with
    | rest _ _ ht => exact ht ▸ existsByProbe_of_absent h
    | request w i rest _ _ hd ht => exact existsByProbe_request (isRequest_of_decodeReq16 hd) ht h
    | illegal _ _ _ _ ht => exact ht ▸ existsByProbe_of_absent h
    | selected i _ hd ht =>
      rcases decodeKind3_cases hd with ⟨-, rfl⟩ | ⟨-, rfl⟩ | ⟨-, rfl⟩ | ⟨-, rfl⟩ | ⟨-, rfl⟩ | ⟨-, rfl⟩ <;>
        cases ht <;> exact existsByProbe_of_absent h
    | badKind _ ht => exact ht ▸ existsByProbe_of_absent h
    | tally _ ht => exact ht ▸ existsByProbe_atTally h
    | accum _ _ ht => exact ht ▸ existsByProbe_atAccum h
    | notDue _ ht => exact ht ▸ existsByProbe_conclude h
    | resume hp ht => exact ht ▸ existsByProbe_resume hr hp h

/-! ## CMD on an absent device -/

/-- Settles O21: the absent answer is an operation that ends in CHECK. -/
theorem cmdIsAbsentWithoutDevice : Obligations.CmdIsAbsentWithoutDevice := by
  intro s i hi he
  obtain ⟨t, hx⟩ := exec_next (.cmd i) s
  rw [hx]
  rcases execCmd_cases hx with ⟨hn, -⟩ | ⟨-, -, rfl⟩ | ⟨-, hn, -⟩
  · exact absurd hi (Nat.not_lt.mpr hn)
  · rw [finish_start]
  · simp [he] at hn

/-! ## A transaction followed to its tally -/

/-- `v` stands before the tally of the transaction begun in `s`, which made `calls`; the answers `rest` are left. -/
structure BeforeTally (s : State) (calls : List Event) (rest : List Answer) (v : State) : Prop where
  op : v.flight.op = s.flight.op
  cfg : v.cfg = s.cfg
  script : v.env.script = rest
  inbox : v.env.inbox = s.env.inbox
  responses : v.env.responses = s.env.responses
  history : v.env.history = s.env.history ++ calls

section ToTally

variable {s v : State} {rest : List Answer}

/-- No call waits while an answer is next. -/
theorem not_stalled_of_answer {a : Answer} (h : s.env.script = a :: rest) (ha : a.isStall = false) :
    stalled s = false := by
  rw [← Bool.not_eq_true]
  intro hs
  obtain ⟨as, has⟩ := stalled_eq_true hs
  cases h.symm.trans has
  cases ha

/-- The operation at a call of a transaction is the one that began it. -/
theorem op_of_atCall {p : Phase} {answers : List Answer} {u : State} (hu : AtCall s p answers u)
    (hr : restsIn p = true) (he : resume u = transact s) : u.flight.op = s.flight.op := by
  obtain ⟨hend, -⟩ := resume_keeps_of_rests (withinBounds_kept u) (hu.phase ▸ hr) (.refl u)
  obtain ⟨hbegin, -⟩ := (withinBounds_kept s).transact (.refl s)
  rw [← hend, he, hbegin]

/-- With the settle waited and the write phase open, a transaction stands at its command byte (40_transaction
R103, R104). -/
theorem transact_at_wrByte {n : Nat} (hop : s.flight.op ≠ .probe) (hs : s.env.script = .cw n :: rest) :
    ∃ u, AtCall s .wrByte (.cw n :: rest) u ∧ u.flight.op = s.flight.op ∧ transact s = atWrByte u := by
  have h : ComesFrom s .settle (.cw n :: rest) (transact s) := hs ▸ comesFrom_transact hop
  obtain ⟨u, hu, he⟩ := (h.wrOpen (by simp)).wrByte (by simp)
  refine ⟨u, hu, op_of_atCall hu rfl he, ?_⟩
  rw [← he, resume, hu.phase]

/-- With the command byte accepted, a transaction stands at its read (40_transaction R104 to R106). -/
theorem transact_at_rd {bytes : List Byte} {st : Byte} (hop : s.flight.op ≠ .probe)
    (hs : s.env.script = .cw 1 :: .rd bytes st :: rest) :
    ∃ u, AtCall s .rd (.rd bytes st :: rest) u ∧ u.flight.op = s.flight.op ∧ transact s = atRd u := by
  have h : ComesFrom s .settle (.cw 1 :: .rd bytes st :: rest) (transact s) := hs ▸ comesFrom_transact hop
  obtain ⟨u, hu, he⟩ := ((h.wrOpen (by simp)).wrByte (by simp)).wrClose.rd (by simp)
  refine ⟨u, hu, op_of_atCall hu rfl he, ?_⟩
  rw [← he, resume, hu.phase]

/-- Any count but 1 is followed by a close that releases the bus, and by the tally of `ST_WR_INCOMPLETE`
(40_transaction R105). The close is not one that waits (log 4). -/
theorem transact_of_incomplete {n : Nat} (hop : s.flight.op ≠ .probe) (hs : s.env.script = .cw n :: rest)
    (hn : n ≠ 1) (hw : rest.head? ≠ some (.stall .wrClose)) :
    ∃ v, BeforeTally s
        [.settle s.cfg.tSettle, .openWrite s.arch.addr { opening := s.env.opens },
         .writeByte { opening := s.env.opens } (curRow s).cmd n, .closeWrite { opening := s.env.opens } true]
        rest v
      ∧ v.arch = { s.arch with phase := .wrClose }
      ∧ transact s = toTally stWrIncomplete .failure v := by
  obtain ⟨u, hu, huop, he⟩ := transact_at_wrByte hop hs
  have hhandle := hu.handle (by decide)
  have hcount : countAnswer u = (n, { u with env := { u.env with script := rest } }) := by
    simp [countAnswer, hu.script]
  have hns : stalled (enter .wrClose (callWriteByte (curRow u).cmd u)) = false := by
    rw [← Bool.not_eq_true]
    intro h
    obtain ⟨as, has⟩ := stalled_eq_true h
    simp only [callWriteByte, hcount, enter_env, logEvent_env, enter_arch] at has
    exact hw (by rw [has]; rfl)
  refine ⟨callCloseWrite true (enter .wrClose (callWriteByte (curRow u).cmd u)), ?_, ?_, ?_⟩
  · simp only [callWriteByte, hcount]
    exact ⟨huop, hu.cfg, rfl, hu.inbox, hu.responses,
      by simp [hu.history, hu.curRow, hhandle, transactionCalls, Phase.rank]⟩
  · simp [callWriteByte, hcount, hu.arch]
  · rw [he, atWrByte_of_not_stalled (hu.not_stalled (by simp)), atWrClose_of_not_stalled hns, if_neg, if_pos]
    · simpa [callWriteByte, hcount] using hn
    · simpa [callWriteByte, hcount] using hu.op

/-- The read of a transaction, with its answer and with what stands after it (40_transaction R107). -/
theorem callRead_of_atCall {bytes : List Byte} {st : Byte} {u : State} (hu : AtCall s .rd (.rd bytes st :: rest) u)
    (huop : u.flight.op = s.flight.op) :
    ∃ v, callRead (curRow u).len.toNat u = ((bytes, st), v)
      ∧ BeforeTally s (transactionCalls s (curRow s) bytes st []) rest v
      ∧ v.arch = { s.arch with phase := .rd } := by
  have hread : readAnswer u = ((bytes, st), { u with env := { u.env with script := rest } }) := by
    simp [readAnswer, hu.script]
  refine ⟨logEvent (.read u.arch.addr (curRow u).len.toNat bytes st)
    { u with env := { u.env with script := rest } }, by rw [callRead, hread],
    ⟨huop, hu.cfg, rfl, hu.inbox, hu.responses, ?_⟩, hu.arch⟩
  simp [hu.history, hu.curRow, hu.addr, transactionCalls, Phase.rank]

/-- A response that meets the criterion of 40_transaction R108 is stored, and tallied as a success. -/
theorem transact_of_response {bytes : List Byte} {st : Byte} (hop : s.flight.op ≠ .probe)
    (hs : s.env.script = .cw 1 :: .rd bytes st :: rest) (hok : readOk bytes st = true) :
    ∃ v, BeforeTally s (transactionCalls s (curRow s) bytes st []) rest v
      ∧ v.arch = storeResponse (curRow s) s.arch.curIdx bytes { s.arch with phase := .store }
      ∧ transact s = toTally stSuccess .success v := by
  obtain ⟨u, hu, huop, he⟩ := transact_at_rd hop hs
  obtain ⟨v, hread, hv, harch⟩ := callRead_of_atCall hu huop
  refine ⟨{ v with
    arch := storeResponse (curRow s) s.arch.curIdx bytes { s.arch with phase := .store }
    flight := { v.flight with bytes := bytes }
    env := { v.env with phases := v.env.phases ++ [.store] } },
    ⟨hv.op, hv.cfg, hv.script, hv.inbox, hv.responses, hv.history⟩, rfl, ?_⟩
  rw [he, atRd_of_not_stalled (hu.not_stalled (by simp)), hread]
  simp [hok, atStore, enter, harch, curRow, hv.cfg]

/-- A read that does not meet the criterion is followed by the transport's code, tallied with `ST_SUCCESS`
replaced; nothing is stored (40_transaction R108, R109). -/
theorem transact_of_readFailure {bytes : List Byte} {st code : Byte} (hop : s.flight.op ≠ .probe)
    (hs : s.env.script = .cw 1 :: .rd bytes st :: .ls code :: rest) (hok : readOk bytes st = false) :
    ∃ v, BeforeTally s (transactionCalls s (curRow s) bytes st [.lastStatus code]) rest v
      ∧ v.arch = { s.arch with phase := .rdStatus }
      ∧ transact s = toTally (failureCode code) .failure v := by
  obtain ⟨u, hu, huop, he⟩ := transact_at_rd hop hs
  obtain ⟨v, hread, hv, harch⟩ := callRead_of_atCall hu huop
  have hstatus : statusAnswer (enter .rdStatus v) =
      (code, { enter .rdStatus v with env := { (enter .rdStatus v).env with script := rest } }) := by
    simp [statusAnswer, hv.script]
  have hns : stalled (enter .rdStatus v) = false := not_stalled_of_answer hv.script rfl
  have hvop : (enter .rdStatus v).flight.op ≠ .probe := hv.op ▸ hop
  refine ⟨logEvent (.lastStatus code)
      { enter .rdStatus v with env := { (enter .rdStatus v).env with script := rest } },
    ⟨hv.op, hv.cfg, rfl, hv.inbox, hv.responses, by simp [hv.history, transactionCalls]⟩,
    by simp [harch], ?_⟩
  rw [he, atRd_of_not_stalled (hu.not_stalled (by simp)), hread]
  simp only [hok, Bool.false_eq_true, if_false]
  rw [atRdStatus_of_not_stalled hns, callLastStatus, hstatus]
  simp only [if_neg hvop]

/-! ## From the tally to the end -/

/-- The end of an operation writes the architectural state, answers a record and passes phases. -/
theorem conclude_world (s : State) :
    (conclude s).cfg = s.cfg ∧ (conclude s).env = { s.env with
      responses := (conclude s).env.responses, phases := (conclude s).env.phases } := by
  unfold conclude
  cases s.flight.op with
  | cmd | decode => exact ⟨rfl, rfl⟩
  | fetchexp =>
    rw [latchExponent_frame]
    exact ⟨rfl, rfl⟩
  | probe =>
    rw [latchProbe_frame]
    exact ⟨rfl, rfl⟩

/-- Nor do the tally and the accumulator write more. -/
theorem toTally_world (code : Byte) (r : Result) (s : State) :
    (toTally code r s).cfg = s.cfg ∧ (toTally code r s).env = { s.env with
      responses := (toTally code r s).env.responses, phases := (toTally code r s).env.phases } := by
  unfold toTally atTally afterTally
  split <;>
  · obtain ⟨hc, he⟩ := conclude_world _
    exact ⟨hc, he⟩

/-- A CMD or FETCHEXP that has come to its tally ends with its calls made, its answers taken, and its result
answered. -/
theorem BeforeTally.ends {calls : List Event} (h : BeforeTally s calls rest v) (hop : s.flight.op ≠ .probe)
    (code : Byte) (r : Result) :
    (toTally code r v).cfg = s.cfg ∧ (toTally code r v).env.script = rest
      ∧ (toTally code r v).env.inbox = s.env.inbox
      ∧ (toTally code r v).env.history = s.env.history ++ calls
      ∧ (toTally code r v).env.responses = s.env.responses ++ [resultOnly r] := by
  obtain ⟨hcfg, henv⟩ := toTally_world code r v
  obtain ⟨x, hx, hxr⟩ := toTally_responses code r v
  refine ⟨hcfg.trans h.cfg, ?_, ?_, ?_, ?_⟩
  · rw [henv, ← h.script]
  · rw [henv, ← h.inbox]
  · rw [henv, ← h.history]
  · rw [hx, hxr (h.op ▸ hop), h.responses]

/-- The failure of a CMD leaves what its tally leaves. -/
theorem toTally_failure_cmd (code : Byte) (h : v.flight.op = .cmd) :
    (toTally code .failure v).arch = { (tally code v).arch with phase := .idle } := by
  rw [toTally_failure code v (by simp [h])]
  simp [h, tally]

/-- After the tally of a success a CMD runs the accumulator on a row of kind ENERGY, and answers (40_transaction
R113, R114). -/
theorem afterTally_success_cmd (hop : v.flight.op = .cmd) (hr : v.flight.result = .success) :
    afterTally v = finish (resultOnly .success)
      (if (curRow v).kind = kindEnergy then updateEnergy (enter .accum v) else v) := by
  by_cases hk : (curRow v).kind = kindEnergy <;>
    simp [afterTally, energyDue, atAccum, conclude, hop, hr, hk]

/-- ENERGY.UPDATE does not look at `PHASE`. -/
theorem energyUpdate_phase (ceiling : Nat) (a : Arch) (p : Phase) :
    energyUpdate ceiling { a with phase := p } = { energyUpdate ceiling a with phase := p } := by
  by_cases h : a.respLen.toNat < energyLen <;> simp [energyUpdate, h]

/-- What a success of a CMD leaves: its tally, which is a success under every map (log 12), and on a row of kind
ENERGY one update (40_transaction R112, R113). -/
theorem toTally_success_cmd (hop : v.flight.op = .cmd) :
    (toTally stSuccess .success v).arch =
      if (curRow v).kind = kindEnergy then
        energyUpdate v.cfg.ceiling { (tallyAs .success stSuccess v).arch with phase := .idle }
      else { (tallyAs .success stSuccess v).arch with phase := .idle } := by
  have h : toTally stSuccess .success v = _ :=
    afterTally_success_cmd (v := tally stSuccess (enter .tally { v with
      flight := { v.flight with code := stSuccess, result := .success } })) hop rfl
  have hrow : curRow (tally stSuccess (enter .tally { v with
      flight := { v.flight with code := stSuccess, result := .success } })) = curRow v := rfl
  rw [h, hrow, finish_arch]
  split
  · exact (energyUpdate_phase _ _ _).symm
  · rfl

end ToTally

/-! ## CMD by the transport's answers -/

/-- The state in which a CMD of row `i` leaves CHECK (40_transaction R100). -/
abbrev begunCmd (i : BitVec 8) (s : State) : State := start .cmd { s with arch := { s.arch with curIdx := i } }

section Cmd

variable {s : State} {i : BitVec 8} {row : CommandSpec}

/-- The row in use is the one the index addresses (40_transaction R100). -/
theorem curRow_begunCmd (h : s.cfg.table[i.toNat]? = some row) : curRow (begunCmd i s) = row := by
  simp [curRow, List.getD_eq_getElem?_getD, h]

/-- A response of 1 to 17 bytes with status success meets the criterion of 40_transaction R108. -/
theorem readOk_of_length {bytes : List Byte} (h1 : 1 ≤ bytes.length) (h17 : bytes.length ≤ 17) :
    readOk bytes 0x00 = true := by
  simp [readOk, h1, h17]

/-- What the store of CMD `i` and its success tally leave, with `PHASE` in IDLE (40_transaction R110 to R112). -/
def storedByCmd (row : CommandSpec) (i : BitVec 8) (bytes : List Byte) (a : Arch) : Arch :=
  { storeResponse row i bytes a with
    lastStatus := 0x00, cnt := { a.cnt with totalOk := satinc a.cnt.totalOk }, curIdx := i, phase := .idle }

/-- A CMD whose response is stored ends in Success, on a row of kind ENERGY after one update (40_transaction R108
to R114). -/
theorem cmd_of_response {bytes : List Byte} {rest : List Answer} (hrow : s.cfg.table[i.toNat]? = some row)
    (he : s.arch.existsFlag = true) (hs : s.env.script = .cw 1 :: .rd bytes 0x00 :: rest)
    (h1 : 1 ≤ bytes.length) (h17 : bytes.length ≤ 17) :
    ∃ t, exec (.cmd i) s = .next t
      ∧ t.arch = (if row.kind = kindEnergy then energyUpdate s.cfg.ceiling (storedByCmd row i bytes s.arch)
          else storedByCmd row i bytes s.arch)
      ∧ t.cfg = s.cfg ∧ t.env.script = rest ∧ t.env.inbox = s.env.inbox
      ∧ t.env.history = s.env.history ++ transactionCalls s row bytes 0x00 []
      ∧ t.env.responses = s.env.responses ++ [resultOnly .success] := by
  obtain ⟨v, hv, harch, ht⟩ := transact_of_response (s := begunCmd i s) (by simp) hs (readOk_of_length h1 h17)
  have hrowv : curRow v = row := by
    rw [curRow, harch, hv.cfg]
    exact curRow_begunCmd hrow
  rw [curRow_begunCmd hrow] at hv harch
  refine ⟨_, ht ▸ execCmd_of_exists hrow he, ?_, hv.ends (by simp) stSuccess .success⟩
  rw [toTally_success_cmd hv.op, tallyAs_success, hrowv, hv.cfg, harch]
  rfl

/-- A read that fails in one of the three ways of 40_transaction R108. -/
theorem readOk_eq_false {bytes : List Byte} {st : Byte}
    (h : st ≠ 0x00#8 ∨ bytes.length = 0 ∨ 17 < bytes.length) : readOk bytes st = false := by
  rw [← Bool.not_eq_true]
  intro hok
  obtain ⟨h1, (h17 : bytes.length ≤ 17)⟩ := length_of_readOk hok
  rcases h with hst | h
  · simp [readOk, hst] at hok
  · omega

/-- On a row that is not ASCII the bytes and the tags are stored, and no terminator (40_transaction R110). -/
theorem storedByCmd_of_not_ascii (hk : row.kind ≠ kindAscii) (bytes : List Byte) (a : Arch) :
    storedByCmd row i bytes a = { a with
      raw := storeBytes a.raw 0 bytes, respValid := true, respLen := BitVec.ofNat 5 bytes.length
      respKind := row.kind, respIdx := i, asciiOk := false, lastStatus := 0x00
      cnt := { a.cnt with totalOk := satinc a.cnt.totalOk }
      curIdx := i, phase := .idle } := by
  simp [storedByCmd, storeResponse, hk]

/-- On an ASCII row the terminator is written after the payload when the count fits (40_transaction R111). -/
theorem storedByCmd_of_ascii {b : Byte} {bs : List Byte} (hk : row.kind = kindAscii) (a : Arch) :
    storedByCmd row i (b :: bs) a = { a with
      raw :=
        if b.toNat ≤ 16 ∧ b.toNat ≤ bs.length then writeRaw (storeBytes a.raw 0 (b :: bs)) (b.toNat + 1) 0
        else storeBytes a.raw 0 (b :: bs)
      respValid := true, respLen := BitVec.ofNat 5 (bs.length + 1), respKind := kindAscii, respIdx := i
      asciiOk := decide (b.toNat ≤ 16 ∧ b.toNat ≤ bs.length), lastStatus := 0x00
      cnt := { a.cnt with totalOk := satinc a.cnt.totalOk }
      curIdx := i, phase := .idle } := by
  have hcount : asciiCount (storeBytes a.raw 0 (b :: bs)) = b.toNat := by
    simp [asciiCount, readRaw_storeBytes]
  simp [storedByCmd, storeResponse, hk, hcount, asciiFits]

end Cmd

/-- Settles O22: `transact_of_incomplete`, and the tally of `ST_WR_INCOMPLETE`. -/
theorem cmdIncompleteWrite : Obligations.CmdIncompleteWrite := by
  intro s i row n rest hrow he hs hn hw
  obtain ⟨v, hv, harch, ht⟩ := transact_of_incomplete (s := begunCmd i s) (by simp) hs hn hw
  rw [curRow_begunCmd hrow] at hv
  refine ⟨_, ht ▸ execCmd_of_exists hrow he, ?_, hv.ends (by simp) stWrIncomplete .failure⟩
  have htally : tally stWrIncomplete v = tallyAs .wrIncomplete stWrIncomplete v := rfl
  rw [toTally_failure_cmd _ hv.op, htally, tallyAs_of_keeps (by decide) rfl, harch]
  rfl

/-- Settles O23: `transact_of_readFailure`; the tally reads the counters and the map as they were. -/
theorem cmdReadFailure : Obligations.CmdReadFailure := by
  intro s i row bytes st code rest hrow he hs hbad
  obtain ⟨v, hv, harch, ht⟩ := transact_of_readFailure (s := begunCmd i s) (by simp) hs (readOk_eq_false hbad)
  rw [curRow_begunCmd hrow] at hv
  refine ⟨_, ht ▸ execCmd_of_exists hrow he, ?_, hv.ends (by simp) (failureCode code) .failure⟩
  rw [toTally_failure_cmd _ hv.op, tally, tallyAs_arch, harch, hv.cfg]
  rfl

/-- Settles O24: `cmd_of_response` where nothing follows the store and the tally. -/
theorem cmdStoresTheResponse : Obligations.CmdStoresTheResponse := by
  intro s i row bytes rest hrow he hs h1 h17 hascii henergy
  obtain ⟨t, hx, harch, hends⟩ := cmd_of_response hrow he hs h1 h17
  rw [if_neg henergy, storedByCmd_of_not_ascii hascii] at harch
  refine ⟨t, hx, fun k => ?_, ?_, hends⟩
  · rw [harch]
    exact readRaw_stored _ h17 k
  · rw [harch]

/-- Settles O26: `cmd_of_response`, where the update is what follows the store and the tally. -/
theorem cmdRunsTheEnergyUpdate : Obligations.CmdRunsTheEnergyUpdate := by
  intro s i row bytes rest hrow he hs h1 h17 henergy
  obtain ⟨t, hx, harch, hends⟩ := cmd_of_response hrow he hs h1 h17
  rw [if_pos henergy, storedByCmd_of_not_ascii (by rw [henergy]; decide), henergy] at harch
  exact ⟨t, _, storeBytes s.arch.raw 0 bytes, hx, readRaw_stored _ h17, rfl, harch, hends⟩

/-- Settles O25: `cmd_of_response` on an ASCII row, and what RAW reads after the terminator. -/
theorem cmdTerminatesAsciiResponses : Obligations.CmdTerminatesAsciiResponses := by
  intro s i row b bs rest hrow he hs hlen hascii
  have h17 : (b :: bs).length ≤ 17 := hlen
  obtain ⟨t, hx, harch, hends⟩ := cmd_of_response hrow he hs (Nat.le_add_left 1 _) h17
  rw [if_neg (by rw [hascii]; decide), storedByCmd_of_ascii hascii] at harch
  refine ⟨t, hx, fun k => ?_, ?_, hends⟩
  · rw [harch]
    by_cases hfits : b.toNat ≤ 16 ∧ b.toNat ≤ bs.length
    · have hroom : b.toNat + 1 < 18 := by omega
      simp [hfits, hroom, readRaw_writeRaw, readRaw_stored _ h17]
    · simp only [hfits, false_and, if_false]
      exact readRaw_stored _ h17 k
  · rw [harch]

end Sys2Proof.Proofs

/-! PROOFS. The obligations on 41_decoders: what each decoder answers, when it is refused, what it reads, and that
the binary32 of a decoded value is exact. Before them the rules of the six decoders, of the selection by
`RESP_KIND`, and of a binary32 put together from its fields. -/

namespace Sys2Proof.Proofs

open Sys2Proof.Machine

/-! ## The decoders as instructions -/

/-- The record that a KIND3 row answers, as a function of the architectural state (41_decoders R132 to R137). -/
def decoderOf : Instr → Option (Arch → Response)
  | .decByte => some decodeByte
  | .decWord => some decodeWord
  | .decLinear11 => some decodeLinear11
  | .decVlinear => some decodeVlinear
  | .decAscii => some decodeAscii
  | .decEnergy => some decodeEnergy
  | _ => none

/-- A decoder only answers. -/
theorem exec_of_decoderOf {i : Instr} {f : Arch → Response} (h : decoderOf i = some f) (s : State) :
    exec i s = .next (answered (f s.arch) [.done, .idle] s) := by
  rw [← finish_eq_answered]
  cases i <;> cases h <;> rfl

/-- DECODE is an operation that ends in CHECK (41_decoders R130). -/
theorem exec_decode (s : State) :
    exec .decode s = .next (answered (decodeResponse s.arch) [.check, .done, .idle]
      { s with flight := { s.flight with op := .decode } }) :=
  congrArg Host.Outcome.next (finish_start _ _ _)

/-! ## The selection by `RESP_KIND` -/

/-- Nothing is decoded while no response is valid (41_decoders R131). -/
theorem decodeResponse_of_invalid {a : Arch} (hv : a.respValid = false) :
    decodeResponse a = resultOnly .refused := by
  simp [decodeResponse, hv]

/-- The reserved kinds select no decoder (41_decoders R130). -/
theorem decodeResponse_of_reserved {a : Arch} (hk : 6 ≤ a.respKind.toNat) :
    decodeResponse a = resultOnly .refused := by
  have hne {k : BitVec 3} (hlt : k.toNat < 6) : a.respKind ≠ k := by
    rintro rfl
    omega
  simp [decodeResponse, hne]

/-- DECODE's record is the one of the decoder that the kind selects: by `exec_selected` that decoder answers both
(41_decoders R130). -/
theorem decodeResponse_of_selected {s : State} {i : Instr} {f : Arch → Response} (hv : s.arch.respValid = true)
    (hi : decodeKind3 s.arch.respKind = .ok i) (hf : decoderOf i = some f) :
    decodeResponse s.arch = f s.arch := by
  have h : finish (decodeResponse s.arch) s = answered (f s.arch) [.done, .idle] s :=
    Host.Outcome.next.inj ((exec_selected hi hv).symm.trans (exec_of_decoderOf hf s))
  simpa [answered] using congrArg (fun t => t.env.responses) h

/-- Settles O37: `exec_selected`, and DECODE as an operation that ends in CHECK. -/
theorem decodeRunsTheSelectedDecoder : Obligations.DecodeRunsTheSelectedDecoder := by
  intro s i hv hi
  refine ⟨decodeResponse s.arch, ?_, exec_decode s⟩
  rw [exec_selected hi hv, finish_eq_answered]

/-! ## When a decoder is refused -/

/-- The precondition common to the decoders (41_decoders R131). -/
theorem respHas_iff (a : Arch) (need : Nat) :
    respHas a need = true ↔ a.respValid = true ∧ need ≤ a.respLen.toNat := by
  simp [respHas]

/-- A response that is not valid, or shorter than needed, fails the precondition (41_decoders R131). -/
theorem not_respHas {a : Arch} {need : Nat} (h : a.respValid = false ∨ a.respLen.toNat < need) :
    ¬ respHas a need = true := by
  rw [respHas_iff, not_and_or, Bool.not_eq_true, Nat.not_le]
  exact h

theorem decodeByte_refused {a : Arch} (h : ¬ respHas a 1 = true) : decodeByte a = resultOnly .refused :=
  if_neg h

theorem decodeWord_refused {a : Arch} (h : ¬ respHas a 2 = true) : decodeWord a = resultOnly .refused :=
  if_neg h

theorem decodeLinear11_refused {a : Arch} (h : ¬ respHas a 2 = true) :
    decodeLinear11 a = resultOnly .refused :=
  if_neg h

theorem decodeVlinear_refused {a : Arch} (h : a.expValid = false ∨ ¬ respHas a 2 = true) :
    decodeVlinear a = resultOnly .refused := by
  refine if_neg ?_
  rwa [Bool.and_eq_true, not_and_or, Bool.not_eq_true]

theorem decodeAscii_refused {a : Arch} (h : a.respValid = false ∨ a.asciiOk = false) :
    decodeAscii a = resultOnly .refused := by
  refine if_neg ?_
  rwa [Bool.and_eq_true, not_and_or, Bool.not_eq_true, Bool.not_eq_true]

theorem decodeEnergy_refused {a : Arch} (h : ¬ respHas a 7 = true) : decodeEnergy a = resultOnly .refused :=
  if_neg h

/-- A valid response is refused when the decoder that its kind selects refuses it. -/
theorem decodeResponse_refused {s : State} {k : BitVec 3} {i : Instr} {f : Arch → Response}
    (hv : s.arch.respValid = true) (hk : s.arch.respKind.toNat = k.toNat) (hi : decodeKind3 k = .ok i)
    (hf : decoderOf i = some f) (h : f s.arch = resultOnly .refused) :
    decodeResponse s.arch = resultOnly .refused := by
  rw [decodeResponse_of_selected hv (BitVec.eq_of_toNat_eq hk ▸ hi) hf, h]

/-- Each two-byte decoder refuses a shorter response (41_decoders R131). -/
theorem decodeResponse_of_short_word {s : State} (hv : s.arch.respValid = true) (h1 : 1 ≤ s.arch.respKind.toNat)
    (h3 : s.arch.respKind.toNat ≤ 3) (hl : s.arch.respLen.toNat < 2) :
    decodeResponse s.arch = resultOnly .refused := by
  have hs : ¬ respHas s.arch 2 = true := not_respHas (.inr hl)
  obtain hk | hk | hk : s.arch.respKind.toNat = 1 ∨ s.arch.respKind.toNat = 2 ∨ s.arch.respKind.toNat = 3 := by
    omega
  · exact decodeResponse_refused (k := kindWord) hv hk rfl rfl (decodeWord_refused hs)
  · exact decodeResponse_refused (k := kindLinear11) hv hk rfl rfl (decodeLinear11_refused hs)
  · exact decodeResponse_refused (k := kindVlinear) hv hk rfl rfl (decodeVlinear_refused (.inr hs))

/-- Settles O38: without a valid response or a decoder DECODE itself refuses, else the selected decoder does. -/
theorem decodeRefusals : Obligations.DecodeRefusals := by
  intro s h
  have hr : decodeResponse s.arch = resultOnly .refused := by
    cases hv : s.arch.respValid with
    | false => exact decodeResponse_of_invalid hv
    | true =>
      rcases h with hf | hk | ⟨hk, hl⟩ | ⟨h1, h3, hl⟩ | ⟨hk, he⟩ | ⟨hk, ha⟩ | ⟨hk, hl⟩
      · rw [hv] at hf
        cases hf
      · exact decodeResponse_of_reserved hk
      · exact decodeResponse_refused (k := kindByte) hv hk rfl rfl (decodeByte_refused (not_respHas (.inr hl)))
      · exact decodeResponse_of_short_word hv h1 h3 hl
      · exact decodeResponse_refused (k := kindVlinear) hv hk rfl rfl (decodeVlinear_refused (.inl he))
      · exact decodeResponse_refused (k := kindAscii) hv hk rfl rfl (decodeAscii_refused (.inr ha))
      · exact decodeResponse_refused (k := kindEnergy) hv hk rfl rfl (decodeEnergy_refused (not_respHas (.inr hl)))
  rw [exec_decode, hr]

/-! ## The decoders that copy fields -/

/-- A bit vector is the word of its number. -/
theorem eq_ofNat_of_toNat {w n : Nat} {b : BitVec w} (h : b.toNat = n) : b = BitVec.ofNat w n := by
  rw [← h, BitVec.ofNat_toNat, BitVec.setWidth_eq]

/-- DEC.BYTE in the numbers of the bytes (41_decoders R132). -/
theorem decodeByte_eq (a : Arch) :
    decodeByte a =
      if a.respValid = true ∧ 1 ≤ a.respLen.toNat then
        { result := .success, vkind := 0, uval := BitVec.ofNat 16 (readRaw a.raw 0).toNat }
      else resultOnly .refused := by
  simp only [decodeByte, respHas_iff, BitVec.ofNat_toNat]
  rfl

/-- DEC.WORD in the numbers of the bytes (41_decoders R133). -/
theorem decodeWord_eq (a : Arch) :
    decodeWord a =
      if a.respValid = true ∧ 2 ≤ a.respLen.toNat then
        { result := .success, vkind := 1
          uval := BitVec.ofNat 16 ((readRaw a.raw 0).toNat + 256 * (readRaw a.raw 1).toNat) }
      else resultOnly .refused := by
  simp only [decodeWord, respHas_iff, eq_ofNat_of_toNat (rawWord_toNat a.raw)]
  rfl

/-- DEC.ENERGY in the numbers of the bytes (41_decoders R137). -/
theorem decodeEnergy_eq (a : Arch) :
    decodeEnergy a =
      if a.respValid = true ∧ 7 ≤ a.respLen.toNat then
        { result := .success, vkind := 5
          eAcc := BitVec.ofNat 16 ((readRaw a.raw 1).toNat + 256 * (readRaw a.raw 2).toNat)
          eRoll := readRaw a.raw 3
          eSamp := BitVec.ofNat 24 ((readRaw a.raw 4).toNat + 256 * (readRaw a.raw 5).toNat
            + 65536 * (readRaw a.raw 6).toNat) }
      else resultOnly .refused := by
  simp only [decodeEnergy, respHas_iff, eq_ofNat_of_toNat (energyAcc_toNat a.raw),
    eq_ofNat_of_toNat (energySamp_toNat a.raw)]
  rfl

/-- Settles O39: `decodeByte_eq` and `decodeWord_eq`. -/
theorem passThroughDecoders : Obligations.PassThroughDecoders := by
  intro s
  rw [exec_of_decoderOf rfl, exec_of_decoderOf rfl, decodeByte_eq, decodeWord_eq]
  exact ⟨rfl, rfl⟩

/-- Settles O43: `decodeEnergy_eq`. -/
theorem energyFieldDecoder : Obligations.EnergyFieldDecoder := by
  intro s
  rw [exec_of_decoderOf rfl, decodeEnergy_eq]

/-- The payload byte by byte, then zeros (41_decoders R136). -/
theorem asciiOut_getElem (raw : RawBuf) (count j : Nat) (h : j < 17) :
    (asciiOut raw count)[j] = if j < count then readRaw raw (j + 1) else 0 := by
  simp [asciiOut]

/-- Settles O42: a count of at most 16 fits the five bits of the length field. -/
theorem asciiDecoder : Obligations.AsciiDecoder := by
  refine ⟨fun s hv hok hcount => ?_, fun s h => ?_⟩
  · refine ⟨_, exec_of_decoderOf rfl s, ?_⟩
    have hrec : decodeAscii s.arch = { result := .success, vkind := kindAscii
                                       slen := BitVec.ofNat 5 (asciiCount s.arch.raw)
                                       out := asciiOut s.arch.raw (asciiCount s.arch.raw) } := by
      simp [decodeAscii, hv, hok]
    rw [hrec]
    refine ⟨?_, asciiOut_getElem _ _, rfl⟩
    rw [BitVec.toNat_ofNat, asciiCount]
    exact Nat.mod_eq_of_lt (by omega)
  · rw [exec_of_decoderOf rfl, decodeAscii_refused h]

/-! ## What the decoders read -/

/-- The architectural state with all but what 41_decoders R138 lists at its reset value. -/
def decoderInputs (a : Arch) : Arch :=
  { Arch.reset with
    raw := a.raw, respValid := a.respValid, respLen := a.respLen, respKind := a.respKind
    asciiOk := a.asciiOk, vexp := a.vexp, expValid := a.expValid }

/-- DECODE reads nothing but its inputs (41_decoders R138). -/
theorem decodeResponse_decoderInputs (a : Arch) : decodeResponse (decoderInputs a) = decodeResponse a := rfl

/-- A decoder reads nothing but its inputs (41_decoders R138). -/
theorem decoder_decoderInputs {i : Instr} {f : Arch → Response} (h : decoderOf i = some f) (a : Arch) :
    f (decoderInputs a) = f a := by
  cases i <;> cases h <;> rfl

/-- A record that depends on the decoders' inputs alone, answered along some path, with whatever is latched: what
`DecodersArePure` says of one instruction. -/
theorem pure_of_answered {i : Instr} {f : Arch → Response} {path : List Phase} {latch : Flight → Flight}
    (hx : ∀ s, exec i s = .next (answered (f s.arch) path { s with flight := latch s.flight }))
    (hf : ∀ a, f (decoderInputs a) = f a) {s t : State} (hst : decoderInputs s.arch = decoderInputs t.arch) :
    ∃ u v r, exec i s = .next u ∧ exec i t = .next v
      ∧ u.env.responses = s.env.responses ++ [r] ∧ v.env.responses = t.env.responses ++ [r]
      ∧ u.arch = { s.arch with phase := .idle } ∧ v.arch = { t.arch with phase := .idle } := by
  have hr : f t.arch = f s.arch := by rw [← hf, ← hst, hf]
  exact ⟨_, _, f s.arch, hx s, hx t, rfl, by rw [← hr]; rfl, rfl, rfl⟩

/-- Settles O44: DECODE and the six decoders only answer, and read their inputs alone. -/
theorem decodersArePure : Obligations.DecodersArePure := by
  intro s t i hi hraw hvalid hlen hkind hascii hvexp hexp
  have hst : decoderInputs s.arch = decoderInputs t.arch := by
    rw [decoderInputs, hraw, hvalid, hlen, hkind, hascii, hvexp, hexp]
    rfl
  obtain rfl | ⟨f, hf⟩ : i = .decode ∨ ∃ f, decoderOf i = some f := by
    simp only [List.mem_cons, List.not_mem_nil, or_false] at hi
    rcases hi with rfl | rfl | rfl | rfl | rfl | rfl | rfl
    · exact .inl rfl
    all_goals exact .inr ⟨_, rfl⟩
  · exact pure_of_answered (latch := fun l => { l with op := .decode }) exec_decode decodeResponse_decoderInputs hst
  · exact pure_of_answered (latch := id) (exec_of_decoderOf hf) (decoder_decoderInputs hf) hst

/-! ## A binary32 by its fields -/

/-- The binary32 with this sign, biased exponent and fraction (41_decoders R139). -/
def f32OfFields (negative : Bool) (ex fr : Nat) : BitVec 32 :=
  BitVec.ofNat 32 (f32Sign negative + ex * 2 ^ 23 + fr)

theorem f32Sign_true : f32Sign true = 2 ^ 31 := rfl

theorem f32Sign_false : f32Sign false = 0 := rfl

section Fields

variable {negative : Bool} {ex fr : Nat}

theorem f32OfFields_toNat (hex : ex < 256) (hfr : fr < 2 ^ 23) :
    (f32OfFields negative ex fr).toNat = f32Sign negative + ex * 2 ^ 23 + fr := by
  rw [f32OfFields, BitVec.toNat_ofNat, Nat.mod_eq_of_lt]
  cases negative <;> simp only [f32Sign_true, f32Sign_false] <;> omega

theorem f32OfFields_sign (hex : ex < 256) (hfr : fr < 2 ^ 23) : (f32OfFields negative ex fr).msb = negative := by
  rw [BitVec.msb_eq_decide, f32OfFields_toNat hex hfr]
  cases negative <;> simp [f32Sign] <;> omega

theorem f32OfFields_exponent (hex : ex < 256) (hfr : fr < 2 ^ 23) :
    ((f32OfFields negative ex fr).extractLsb' 23 8).toNat = ex := by
  rw [BitVec.extractLsb'_toNat, f32OfFields_toNat hex hfr, Nat.shiftRight_eq_div_pow]
  cases negative <;> simp only [f32Sign_true, f32Sign_false] <;> omega

theorem f32OfFields_fraction (hex : ex < 256) (hfr : fr < 2 ^ 23) :
    ((f32OfFields negative ex fr).extractLsb' 0 23).toNat = fr := by
  rw [BitVec.extractLsb'_toNat, f32OfFields_toNat hex hfr, Nat.shiftRight_zero]
  cases negative <;> simp only [f32Sign_true, f32Sign_false] <;> omega

/-- The value of a normal binary32 (41_decoders R139). -/
theorem f32Value_f32OfFields (hpos : 0 < ex) (hex : ex < 256) (hfr : fr < 2 ^ 23) :
    f32Value (f32OfFields negative ex fr) =
      (if negative then -1 else 1) * (((2 ^ 23 + fr : Nat) : ℚ) * (2 : ℚ) ^ ((ex : Int) - 150)) := by
  have hmag : mkRat ((2 ^ 23 + fr) * 2 ^ ex) (2 ^ 150)
      = ((2 ^ 23 + fr : Nat) : ℚ) * (2 : ℚ) ^ ((ex : Int) - 150) := by
    rw [Rat.mkRat_eq_div, zpow_sub₀ two_ne_zero]
    push_cast
    exact mul_div_assoc _ _ _
  simp only [f32Value, f32OfFields_sign hex hfr, f32OfFields_exponent hex hfr, f32OfFields_fraction hex hfr,
    if_neg hpos.ne', hmag]
  cases negative <;> simp

end Fields

/-! ## The binary32 of a decoded value -/

/-- A number shifted so that its top bit is bit 23 is a significand. -/
theorem significand_bounds {a : Nat} (h0 : a ≠ 0) (h24 : a < 2 ^ 24) :
    2 ^ 23 ≤ a * 2 ^ (23 - a.log2) ∧ a * 2 ^ (23 - a.log2) < 2 ^ 24 := by
  have hk : a.log2 < 24 := (Nat.log2_lt h0).mpr h24
  have hpow (n : Nat) (hn : a.log2 ≤ 23) : 2 ^ (a.log2 + n) * 2 ^ (23 - a.log2) = 2 ^ (23 + n) := by
    rw [← Nat.pow_add]
    congr 1
    omega
  constructor
  · rw [← hpow 0 (by omega)]
    exact Nat.mul_le_mul_right _ (Nat.log2_self_le h0)
  · rw [← hpow 1 (by omega)]
    exact Nat.mul_lt_mul_of_pos_right Nat.lt_log2_self (by positivity)

/-- The binary32 of `m * 2^e` is exact wherever the mantissa has at most 24 bits and the value is in the normal
range (41_decoders R139). -/
theorem f32Value_f32OfDyadic {m e : Int} (h0 : m ≠ 0) (h24 : m.natAbs < 2 ^ 24)
    (hlo : -126 ≤ e + m.natAbs.log2) (hhi : e + m.natAbs.log2 ≤ 127) :
    f32Value (f32OfDyadic m e) = (m : ℚ) * (2 : ℚ) ^ e := by
  have ha : m.natAbs ≠ 0 := Int.natAbs_ne_zero.mpr h0
  obtain ⟨hsig, hsig'⟩ := significand_bounds ha h24
  have hk : m.natAbs.log2 < 24 := (Nat.log2_lt ha).mpr h24
  have hfields : f32OfDyadic m e = f32OfFields (m < 0) (e + m.natAbs.log2 + 127).toNat
      (m.natAbs * 2 ^ (23 - m.natAbs.log2) - 2 ^ 23) := if_neg h0
  have hex : ((e + m.natAbs.log2 + 127).toNat : Int) - 150 = e - ((23 - m.natAbs.log2 : Nat) : Int) := by omega
  have hvalue : ((m.natAbs * 2 ^ (23 - m.natAbs.log2) : Nat) : ℚ)
      * (2 : ℚ) ^ (e - ((23 - m.natAbs.log2 : Nat) : Int)) = m.natAbs * (2 : ℚ) ^ e := by
    rw [zpow_sub₀ two_ne_zero, zpow_natCast]
    push_cast
    field_simp
  have hsign : (if decide (m < 0) = true then (-1 : ℚ) else 1) * m.natAbs = m := by
    rcases lt_or_gt_of_ne h0 with hneg | hpos
    · rw [if_pos (by simpa using hneg), Nat.cast_natAbs, abs_of_neg hneg]
      simp
    · rw [if_neg (by simpa using hpos.le), Nat.cast_natAbs, abs_of_pos hpos, one_mul]
  rw [hfields, f32Value_f32OfFields (by omega) (by omega) (by omega), hex, Nat.add_sub_cancel' hsig, hvalue,
    ← mul_assoc, hsign]

/-- Settles O45: 65535 has 16 bits, so the biased exponent lies between 111 and 157. -/
theorem decodedBinary32IsExact : Obligations.DecodedBinary32IsExact := by
  intro m e hm hm' he he'
  refine ⟨?_, fun h0 => if_pos h0⟩
  by_cases h0 : m = 0
  · subst h0
    have hzero : f32Value (f32OfDyadic 0 e) = 0 := by
      rw [show f32OfDyadic 0 e = 0 from if_pos rfl]
      rfl
    simp [hzero]
  · have hlog : m.natAbs.log2 < 16 := (Nat.log2_lt (Int.natAbs_ne_zero.mpr h0)).mpr (by omega)
    exact f32Value_f32OfDyadic h0 (by omega) (by omega) (by omega)

/-! ## The linear decoders -/

/-- The mantissa of a LINEAR11 word is signed of eleven bits, wherever it is held (41_decoders R134). -/
theorem signExtend_mant_bounds (b : BitVec 11) :
    -1024 ≤ (b.signExtend 17).toInt ∧ (b.signExtend 17).toInt ≤ 1023 := by
  rw [signExtend_mant_toInt]
  split <;> omega

/-- An exponent is signed of five bits, wherever it is held (41_decoders R134, R135). -/
theorem signExtend_exp_bounds (b : BitVec 5) : -16 ≤ (b.signExtend 6).toInt ∧ (b.signExtend 6).toInt ≤ 15 := by
  rw [signExtend_exp_toInt]
  split <;> omega

/-- The word without a sign: one more bit holds it (41_decoders R135). -/
theorem setWidth_toInt (w : Word) : (w.setWidth 17).toInt = w.toNat := by
  have hw : (w.setWidth 17).toNat = w.toNat := by
    rw [BitVec.toNat_setWidth, Nat.mod_eq_of_lt (by omega)]
  rw [BitVec.toInt_eq_toNat_of_lt (by omega), hw]

/-- What both linear decoders say of their record: a mantissa `m`, an exponent `e` and the exact binary32 of
`m * 2^e` (41_decoders R139). -/
theorem linearRecord_exact (kind : BitVec 3) {mant : BitVec 17} {exp : BitVec 5} {m e : Int}
    (hmant : mant.toInt = m) (hexp : (exp.signExtend 6).toInt = e) (hlo : -65535 ≤ mant.toInt)
    (hhi : mant.toInt ≤ 65535) :
    let r := linearRecord kind mant (exp.signExtend 6)
    r.mant.toInt = m ∧ r.exp.toInt = e ∧ f32Value r.f32 = (m : ℚ) * (2 : ℚ) ^ e ∧ (m = 0 → r.f32 = 0)
      ∧ r = { result := .success, vkind := kind, mant := r.mant, exp := r.exp, f32 := r.f32 } := by
  subst hmant hexp
  obtain ⟨hexp, hexp'⟩ := signExtend_exp_bounds exp
  obtain ⟨hvalue, hzero⟩ := decodedBinary32IsExact _ _ hlo hhi hexp hexp'
  exact ⟨rfl, rfl, hvalue, hzero, rfl⟩

/-- Settles O40: both fields of the word, each extended from its own top bit, and `linearRecord_exact`. -/
theorem linear11Decoder : Obligations.Linear11Decoder := by
  refine ⟨fun s hv hl => ?_, fun s h => ?_⟩
  · have hmant := signExtend_mant_toInt (linearMant (rawWord s.arch.raw))
    have hexp := signExtend_exp_toInt (linearExp (rawWord s.arch.raw))
    rw [linearMant_toNat, rawWord_toNat] at hmant
    rw [linearExp_toNat, rawWord_toNat] at hexp
    obtain ⟨hlo, hhi⟩ := signExtend_mant_bounds (linearMant (rawWord s.arch.raw))
    have hrec : decodeLinear11 s.arch = linearRecord kindLinear11 _ _ := if_pos ((respHas_iff _ _).mpr ⟨hv, hl⟩)
    exact ⟨_, hrec ▸ exec_of_decoderOf rfl s, linearRecord_exact _ hmant hexp (by omega) (by omega)⟩
  · rw [exec_of_decoderOf rfl, decodeLinear11_refused (not_respHas h)]

/-- Settles O41: the whole word, `VEXP`, and `linearRecord_exact`. -/
theorem vlinearDecoder : Obligations.VlinearDecoder := by
  refine ⟨fun s hv he hl => ?_, fun s h => ?_⟩
  · have hmant := setWidth_toInt (rawWord s.arch.raw)
    have hw := (rawWord s.arch.raw).isLt
    have hexp : (s.arch.vexp.signExtend 6).toInt = s.arch.vexp.toInt :=
      BitVec.toInt_signExtend_of_le (by omega)
    have hrec : decodeVlinear s.arch = linearRecord kindVlinear _ _ :=
      if_pos (by rw [he, Bool.true_and, respHas_iff]; exact ⟨hv, hl⟩)
    obtain ⟨hm, hx, hvalue, hzero, hr⟩ := linearRecord_exact kindVlinear hmant hexp (by omega) (by omega)
    rw [rawWord_toNat] at hm hvalue hzero
    rw [Int.cast_natCast] at hvalue
    exact ⟨_, hrec ▸ exec_of_decoderOf rfl s, hm, hx, hvalue, fun h0 => hzero (congrArg Nat.cast h0), hr⟩
  · have hrefused : s.arch.expValid = false ∨ ¬ respHas s.arch 2 = true := by
      rcases h with hv | he | hl
      · exact .inr (not_respHas (.inl hv))
      · exact .inl he
      · exact .inr (not_respHas (.inr hl))
    rw [exec_of_decoderOf rfl, decodeVlinear_refused hrefused]

end Sys2Proof.Proofs

/-! PROOFS. The obligations on 42_energy: what ENERGY.UPDATE computes, the rollover property, the width of the energy
count, the rounding of the average power, and that the last copies equal the current fields. Before them the update
in exact quotients, the value of a binary32 as a significand and an exponent, and the distance of a rounded number
to every other. -/

namespace Sys2Proof.Proofs

open Sys2Proof.Machine

/-! ## The energy update -/

/-- The exact energy difference of an update (42_energy R153, R154). -/
def energyDiff (ceiling : Nat) (a : Arch) : ℚ :=
  (energyCountCorr ceiling a.eLastRoll.toNat (energyRoll a.raw).toNat (energyAcc a.raw).toNat : ℚ)
    - (energyCount ceiling a.eLastRoll.toNat a.eLastAcc.toNat : ℚ)

/-- The sample difference of an update (42_energy R155). -/
def updateSamples (a : Arch) : Nat := sampleDiff a.eLastSamp.toNat (energySamp a.raw).toNat

/-- ENERGY.UPDATE on a response that is too short (42_energy R157). -/
theorem energyUpdate_of_short {ceiling : Nat} {a : Arch} (h : a.respLen.toNat < 7) :
    energyUpdate ceiling a = { a with avgValid := false } := if_pos h

/-- ENERGY.UPDATE on a full response, the average as a quotient of rationals (42_energy R156, R159). -/
theorem energyUpdate_of_full {ceiling : Nat} {a : Arch} (h : 7 ≤ a.respLen.toNat) :
    energyUpdate ceiling a = { a with
      avgPower := if updateSamples a = 0 then a.avgPower else energyDiff ceiling a / updateSamples a
      avgValid := decide (updateSamples a ≠ 0)
      eCount := BitVec.ofNat 32
        (energyCountCorr ceiling a.eLastRoll.toNat (energyRoll a.raw).toNat (energyAcc a.raw).toNat)
      eAcc := energyAcc a.raw, eRoll := energyRoll a.raw, eSamp := energySamp a.raw
      eLastAcc := energyAcc a.raw, eLastRoll := energyRoll a.raw, eLastSamp := energySamp a.raw } := by
  have hskip : ¬ a.respLen.toNat < energyLen := Nat.not_lt.mpr h
  have havg (dE : ℤ) (dS : Nat) : mkRat dE dS = (dE : ℚ) / (dS : ℚ) := Rat.mkRat_eq_div dE dS
  have hvalid (n : Nat) : (n != 0) = decide (n ≠ 0) := by cases n <;> rfl
  simp only [energyUpdate, if_neg hskip, havg, hvalid, energyDiff, updateSamples, Int.cast_sub, Int.cast_natCast]
  rfl

/-- What ENERGY.UPDATE leaves is the update of the architectural state (42_energy R150). -/
theorem arch_of_exec_energyUpdate {s t : State} {len : BitVec 5} {cmd : Byte}
    (hx : exec (.energyUpdate len cmd) s = .next t) : t.arch = energyUpdate s.cfg.ceiling s.arch := by
  cases hx
  rfl

/-- Settles O52: `energyUpdate_of_full` in the numbers of the bytes, and `energyUpdate_of_short`. -/
theorem energyUpdateComputes : Obligations.EnergyUpdateComputes := by
  refine ⟨fun s len cmd h => ?_, fun s len cmd h => ?_⟩
  · have hx : exec (.energyUpdate len cmd) s = .next { s with arch := energyUpdate s.cfg.ceiling s.arch } := rfl
    rw [hx, energyUpdate_of_full h]
    simp only [← energyAcc_toNat, ← energySamp_toNat, BitVec.ofNat_toNat, BitVec.setWidth_eq]
    rfl
  · exact congrArg (fun a => Host.Outcome.next { s with arch := a }) (energyUpdate_of_short h)

/-- The corrected count where the overflow-count byte wrapped (42_energy R154). -/
theorem energyCountCorr_of_wrap {ceiling lastRoll roll acc : Nat} (h : roll < lastRoll) :
    energyCountCorr ceiling lastRoll roll acc = (roll + 256) * ceiling + acc := if_pos h

/-- The corrected count where it did not (42_energy R152). -/
theorem energyCountCorr_of_le {ceiling lastRoll roll acc : Nat} (h : lastRoll ≤ roll) :
    energyCountCorr ceiling lastRoll roll acc = roll * ceiling + acc := if_neg (Nat.not_lt.mpr h)

/-- The sample difference where the counter did not wrap (42_energy R155). -/
theorem sampleDiff_of_le {lastSamp samp : Nat} (h : lastSamp ≤ samp) :
    sampleDiff lastSamp samp = samp - lastSamp := if_neg (Nat.not_lt.mpr h)

/-- Settles O53: the count is corrected, the sample difference is plain and not zero. -/
theorem rolloverMatchesTheUnwrappedCount : Obligations.RolloverMatchesTheUnwrappedCount := by
  intro s t len cmd hlen hroll hsamp hx
  have hsamp : s.arch.eLastSamp.toNat < (energySamp s.arch.raw).toNat := hsamp
  have hdS : updateSamples s.arch = (energySamp s.arch.raw).toNat - s.arch.eLastSamp.toNat :=
    sampleDiff_of_le hsamp.le
  have hne : updateSamples s.arch ≠ 0 := by omega
  have hdE : energyDiff s.cfg.ceiling s.arch =
      (((energyRoll s.arch.raw).toNat : ℚ) + 256 - s.arch.eLastRoll.toNat) * s.cfg.ceiling
        + (energyAcc s.arch.raw).toNat - s.arch.eLastAcc.toNat := by
    rw [energyDiff, energyCountCorr_of_wrap hroll, energyCount]
    push_cast
    ring
  rw [arch_of_exec_energyUpdate hx, energyUpdate_of_full hlen]
  refine ⟨decide_eq_true hne, ?_⟩
  simp only [if_neg hne]
  rw [hdE, hdS, Nat.cast_sub hsamp.le]

/-- With a ceiling in range the largest corrected count is that of a wrap to 254 (42_energy R160). -/
theorem energyCountCorr_lt {ceiling lastRoll roll acc : Nat} (hc : ceiling ≤ 65536) (hlast : lastRoll < 256)
    (hroll : roll < 256) (hacc : acc < 65536) : energyCountCorr ceiling lastRoll roll acc < 2 ^ 25 := by
  rcases lt_or_ge roll lastRoll with h | h
  · rw [energyCountCorr_of_wrap h]
    have : (roll + 256) * ceiling ≤ 510 * 65536 := Nat.mul_le_mul (by omega) hc
    omega
  · rw [energyCountCorr_of_le h]
    have : roll * ceiling ≤ 255 * 65536 := Nat.mul_le_mul (by omega) hc
    omega

/-- Settles O54: the corrected count has at most 25 bits, so the register holds it. -/
theorem energyCountNeverWraps : Obligations.EnergyCountNeverWraps := by
  intro s t len cmd hc hlen hx
  have hlt := energyCountCorr_lt (acc := (energyAcc s.arch.raw).toNat) hc s.arch.eLastRoll.isLt
    (energyRoll s.arch.raw).isLt (energyAcc s.arch.raw).isLt
  rw [arch_of_exec_energyUpdate hx, energyUpdate_of_full hlen]
  simp only [BitVec.toNat_ofNat]
  rw [Nat.mod_eq_of_lt (by omega)]
  exact ⟨rfl, hlt⟩

/-! ## The last copies -/

/-- A full update writes both from the response, a skipped one writes neither (42_energy R157, R158). -/
theorem energyCopiesAgree_updateEnergy {s : State} (h : EnergyCopiesAgree s) :
    EnergyCopiesAgree (updateEnergy s) := by
  rw [EnergyCopiesAgree, updateEnergy_arch]
  rcases lt_or_ge s.arch.respLen.toNat 7 with hlen | hlen
  · rw [energyUpdate_of_short hlen]
    exact h
  · rw [energyUpdate_of_full hlen]
    exact ⟨rfl, rfl, rfl⟩

/-- Only the energy update and a reset write the energy file. -/
theorem energyCopiesAgree_kept : StepKept EnergyCopiesAgree where
  enter _ _ h := h
  log _ _ h := h
  respond _ _ h := h
  world _ _ _ _ _ _ h := h
  carry _ _ _ h := h
  tally _ _ h := h
  store _ _ h := h
  energy _ _ h := energyCopiesAgree_updateEnergy h
  exponent s _ h := by rw [latchExponent_frame]; exact h
  probe s _ h := by rw [latchProbe_frame]; exact h
  index _ _ h := h
  absent _ h := h
  inbox _ _ h := h
  latch _ _ h := h
  retarget _ _ h := h
  reset _ _ := ⟨rfl, rfl, rfl⟩

/-- Settles O59: every part of a step keeps the agreement. -/
theorem stepKeepsEnergyCopiesAgree : Obligations.StepKeepsEnergyCopiesAgree := by
  intro s t h hx
  exact energyCopiesAgree_kept.step hx h (fun _ => h) (fun _ => energyCopiesAgree_updateEnergy h)

/-! ## Rounding to the nearest integer, ties to even -/

/-- `s` is at most one half away from `t`, and even where it is exactly that. -/
structure RoundsTo (t : ℚ) (s : Nat) : Prop where
  close : |(s : ℚ) - t| ≤ 1 / 2
  even : |(s : ℚ) - t| = 1 / 2 → s % 2 = 0

/-- Down to the quotient while the remainder is at most half the divisor, else up; at the half to the even one. -/
theorem roundNearestEven_cases (n d : Nat) :
    (2 * (n % d) ≤ d ∧ roundNearestEven n d = n / d ∧ (2 * (n % d) = d → roundNearestEven n d % 2 = 0))
      ∨ (d ≤ 2 * (n % d) ∧ roundNearestEven n d = n / d + 1
        ∧ (2 * (n % d) = d → roundNearestEven n d % 2 = 0)) := by
  simp only [roundNearestEven]
  split
  · omega
  split
  · omega
  split <;> omega

theorem roundsTo_roundNearestEven (n : Nat) {d : Nat} (hd : 0 < d) :
    RoundsTo ((n : ℚ) / d) (roundNearestEven n d) := by
  have hd' : (0 : ℚ) < d := by exact_mod_cast hd
  have hsplit : (n : ℚ) / d = (n / d : Nat) + (n % d : Nat) / d := by
    rw [div_eq_iff hd'.ne', add_mul, div_mul_cancel₀ _ hd'.ne']
    exact_mod_cast (Nat.div_add_mod' n d).symm
  have hhalf : ((n % d : Nat) : ℚ) / d = 1 / 2 → 2 * (n % d) = d := by
    rw [div_eq_div_iff hd'.ne' two_ne_zero, one_mul, mul_comm]
    exact_mod_cast id
  rcases roundNearestEven_cases n d with ⟨hle, hval, heven⟩ | ⟨hle, hval, heven⟩
  · have hfrac : ((n % d : Nat) : ℚ) / d ≤ 1 / 2 := by
      rw [div_le_div_iff₀ hd' two_pos, one_mul, mul_comm]
      exact_mod_cast hle
    have hdist : |(roundNearestEven n d : ℚ) - n / d| = (n % d : Nat) / d := by
      rw [hval, hsplit, sub_add_cancel_left, abs_neg, abs_of_nonneg (by positivity)]
    exact ⟨hdist ▸ hfrac, fun h => heven (hhalf (hdist ▸ h))⟩
  · have hfrac : 1 / 2 ≤ ((n % d : Nat) : ℚ) / d := by
      rw [div_le_div_iff₀ two_pos hd', one_mul, mul_comm]
      exact_mod_cast hle
    have hlt : ((n % d : Nat) : ℚ) / d < 1 := by
      rw [div_lt_one hd']
      exact_mod_cast Nat.mod_lt n hd
    have hdist : |(roundNearestEven n d : ℚ) - n / d| = 1 - (n % d : Nat) / d := by
      rw [hval, hsplit, Nat.cast_succ, add_sub_add_left_eq_sub, abs_of_pos (by linarith)]
    exact ⟨by linarith, fun h => heven (hhalf (by linarith))⟩

/-- No integer is closer to `t` than one at most a half away, and another as close makes the distance a half. -/
theorem nearest_of_close {t : ℚ} {m k : ℤ} (h : |(m : ℚ) - t| ≤ 1 / 2) (hk : k ≠ m) :
    |(m : ℚ) - t| ≤ |(k : ℚ) - t| ∧ (|(k : ℚ) - t| = |(m : ℚ) - t| → |(m : ℚ) - t| = 1 / 2) := by
  have hone : (1 : ℚ) ≤ |(k : ℚ) - m| := by
    exact_mod_cast Int.one_le_abs (sub_ne_zero.mpr hk)
  have htri : |(k : ℚ) - m| ≤ |(k : ℚ) - t| + |(m : ℚ) - t| := by
    rw [abs_sub_comm (m : ℚ) t]
    exact abs_sub_le _ _ _
  exact ⟨by linarith, fun _ => by linarith⟩

/-! ## The exponent and the significand of a rational -/

/-- A power of two as the quotient in which `floorLog2` and `f32OfRat` scale by it. -/
theorem two_zpow_eq_div (x : ℤ) : (2 : ℚ) ^ x = 2 ^ x.toNat / 2 ^ (-x).toNat := by
  rw [← zpow_natCast, ← zpow_natCast, ← zpow_sub₀ two_ne_zero]
  congr 1
  omega

/-- The test of `floorLog2`. -/
theorem scaled_lt_iff (n : Nat) {d : Nat} (hd : 0 < d) (x : ℤ) :
    n * 2 ^ (-x).toNat < d * 2 ^ x.toNat ↔ (n : ℚ) / d < 2 ^ x := by
  rw [two_zpow_eq_div, div_lt_div_iff₀ (by exact_mod_cast hd) (by positivity), mul_comm d]
  norm_cast

/-- The quotient that `f32OfRat` rounds. -/
theorem scaled_div (n d : Nat) (x : ℤ) :
    ((n * 2 ^ (23 - x).toNat : Nat) : ℚ) / (d * 2 ^ (x - 23).toNat : Nat) = n / d / 2 ^ (x - 23) := by
  rw [two_zpow_eq_div, neg_sub, div_div_div_eq]
  push_cast
  rfl

theorem log2_bounds {n : Nat} (hn : n ≠ 0) :
    (2 : ℚ) ^ (n.log2 : ℤ) ≤ n ∧ (n : ℚ) < 2 ^ ((n.log2 : ℤ) + 1) := by
  constructor
  · exact_mod_cast Nat.log2_self_le hn
  · exact_mod_cast Nat.lt_log2_self (n := n)

/-- `floorLog2` is the exponent of the quotient: the difference of the logarithms, or one less. -/
theorem floorLog2_bounds {n d : Nat} (hn : n ≠ 0) (hd : 0 < d) :
    (2 : ℚ) ^ floorLog2 n d ≤ n / d ∧ (n : ℚ) / d < 2 ^ (floorLog2 n d + 1) := by
  obtain ⟨hn1, hn2⟩ := log2_bounds hn
  obtain ⟨hd1, hd2⟩ := log2_bounds hd.ne'
  have hlower : (2 : ℚ) ^ ((n.log2 : ℤ) - d.log2 - 1) ≤ n / d := by
    rw [sub_sub, zpow_sub₀ two_ne_zero]
    exact div_le_div₀ (by positivity) hn1 (by exact_mod_cast hd) hd2.le
  have hupper : (n : ℚ) / d < 2 ^ ((n.log2 : ℤ) - d.log2 + 1) := by
    rw [sub_add_eq_add_sub, zpow_sub₀ two_ne_zero]
    exact div_lt_div₀ hn2 hd1 (by positivity) (by positivity)
  simp only [floorLog2]
  split
  · next h => exact ⟨hlower, by rwa [sub_add_cancel, ← scaled_lt_iff n hd]⟩
  · next h => exact ⟨by rwa [scaled_lt_iff n hd, not_lt] at h, hupper⟩

/-- `x` is the exponent of `q`, and `s` its significand of 24 bits, rounded (42_energy R164). -/
structure Rounded (q : ℚ) (x : ℤ) (s : Nat) : Prop where
  lower : (2 : ℚ) ^ x ≤ |q|
  upper : |q| < 2 ^ (x + 1)
  sig : RoundsTo (|q| / 2 ^ (x - 23)) s

/-- The view of a quotient that is not zero, by the fields it is put together from. -/
theorem f32OfRat_eq_f32OfFields {q : ℚ} (hq : q ≠ 0) :
    ∃ x s, Rounded q x s ∧ f32OfRat q = f32OfFields (decide (q < 0)) (x + 127).toNat (s - 2 ^ 23) := by
  have hnum : q.num ≠ 0 := Rat.num_ne_zero.mpr hq
  have habs : |q| = (q.num.natAbs : ℚ) / q.den := by
    rw [Nat.cast_natAbs, Int.cast_abs, ← Nat.abs_cast q.den, ← abs_div, Rat.num_div_den]
  have hsign : decide (q.num < 0) = decide (q < 0) := decide_eq_decide.mpr Rat.num_neg
  obtain ⟨hlower, hupper⟩ := floorLog2_bounds (Int.natAbs_ne_zero.mpr hnum) q.den_pos
  have hfields : f32OfRat q = f32OfFields (decide (q.num < 0)) (floorLog2 q.num.natAbs q.den + 127).toNat
      (roundNearestEven (q.num.natAbs * 2 ^ (23 - floorLog2 q.num.natAbs q.den).toNat)
        (q.den * 2 ^ (floorLog2 q.num.natAbs q.den - 23).toNat) - 2 ^ 23) := if_neg hnum
  refine ⟨_, _, ⟨habs ▸ hlower, habs ▸ hupper, ?_⟩, hsign ▸ hfields⟩
  rw [habs, ← scaled_div]
  exact roundsTo_roundNearestEven _ (Nat.mul_pos q.den_pos (by positivity))

/-! ## The value of a binary32 -/

/-- The biased exponent of a binary32, that of a subnormal counted as 1 (41_decoders R139). -/
def f32Exponent (b : BitVec 32) : Nat := max 1 (b.extractLsb' 23 8).toNat

/-- The significand of a binary32, the leading bit of a normal one restored (41_decoders R139). -/
def f32Significand (b : BitVec 32) : Nat :=
  if (b.extractLsb' 23 8).toNat = 0 then (b.extractLsb' 0 23).toNat else 2 ^ 23 + (b.extractLsb' 0 23).toNat

/-- The sign of a value. -/
def signFactor (negative : Bool) : ℤ := if negative then -1 else 1

theorem abs_signFactor (negative : Bool) : |signFactor negative| = 1 := by
  cases negative <;> rfl

/-- Different signs have different factors. -/
theorem signFactor_injective : Function.Injective signFactor := by decide

theorem f32Significand_lt (b : BitVec 32) : f32Significand b < 2 ^ 24 := by
  have := (b.extractLsb' 0 23).isLt
  unfold f32Significand
  split <;> omega

/-- Only a subnormal has a significand of less than 24 bits (41_decoders R139). -/
theorem f32Exponent_of_significand_lt {b : BitVec 32} (h : f32Significand b < 2 ^ 23) : f32Exponent b = 1 := by
  unfold f32Significand at h
  split at h
  · next h0 => simp [f32Exponent, h0]
  · omega

/-- A binary32 is put together from its fields. -/
theorem f32OfFields_self (b : BitVec 32) :
    f32OfFields b.msb (b.extractLsb' 23 8).toNat (b.extractLsb' 0 23).toNat = b := by
  have hb := b.isLt
  apply BitVec.eq_of_toNat_eq
  rw [f32OfFields_toNat (b.extractLsb' 23 8).isLt (b.extractLsb' 0 23).isLt, BitVec.extractLsb'_toNat,
    BitVec.extractLsb'_toNat, Nat.shiftRight_eq_div_pow, Nat.shiftRight_zero, BitVec.msb_eq_decide, f32Sign]
  simp only [decide_eq_true_eq]
  split <;> omega

/-- The value of a binary32, normal or not, as its significand times a power of two (41_decoders R139). -/
theorem f32Value_eq (b : BitVec 32) :
    f32Value b = signFactor b.msb * (f32Significand b * (2 : ℚ) ^ ((f32Exponent b : ℤ) - 150)) := by
  by_cases h0 : (b.extractLsb' 23 8).toNat = 0
  · have hsub : mkRat (2 * (b.extractLsb' 0 23).toNat) (2 ^ 150)
        = (b.extractLsb' 0 23).toNat * (2 : ℚ) ^ ((1 : ℤ) - 150) := by
      rw [Rat.mkRat_eq_div, zpow_sub₀ two_ne_zero, zpow_one, mul_comm]
      push_cast
      exact mul_div_assoc _ _ _
    simp only [f32Value, f32Significand, f32Exponent, h0, if_true, hsub]
    cases b.msb <;> simp [signFactor]
  · have hnormal := f32Value_f32OfFields (negative := b.msb) (Nat.pos_of_ne_zero h0)
      (b.extractLsb' 23 8).isLt (b.extractLsb' 0 23).isLt
    rw [f32OfFields_self] at hnormal
    rw [hnormal, f32Significand, if_neg h0, f32Exponent, max_eq_right (Nat.pos_of_ne_zero h0)]
    cases b.msb <;> simp [signFactor]

theorem abs_f32Value (b : BitVec 32) :
    |f32Value b| = f32Significand b * (2 : ℚ) ^ ((f32Exponent b : ℤ) - 150) := by
  have hsign : |(signFactor b.msb : ℚ)| = 1 := by exact_mod_cast abs_signFactor b.msb
  rw [f32Value_eq, abs_mul, hsign, one_mul, abs_of_nonneg (by positivity)]

theorem abs_f32Value_lt (b : BitVec 32) : |f32Value b| < 2 ^ ((f32Exponent b : ℤ) - 126) := by
  have hsig : (f32Significand b : ℚ) < 2 ^ (24 : ℤ) := by exact_mod_cast f32Significand_lt b
  calc |f32Value b| = f32Significand b * (2 : ℚ) ^ ((f32Exponent b : ℤ) - 150) := abs_f32Value b
    _ < 2 ^ (24 : ℤ) * 2 ^ ((f32Exponent b : ℤ) - 150) := by gcongr
    _ = 2 ^ ((f32Exponent b : ℤ) - 126) := by rw [← zpow_add₀ two_ne_zero]; congr 1; ring

theorem le_abs_f32Value {b : BitVec 32} (h : f32Exponent b ≠ 1) :
    2 ^ ((f32Exponent b : ℤ) - 127) ≤ |f32Value b| := by
  have hsig : (2 : ℚ) ^ (23 : ℤ) ≤ f32Significand b := by
    exact_mod_cast Nat.le_of_not_lt (mt f32Exponent_of_significand_lt h)
  calc (2 : ℚ) ^ ((f32Exponent b : ℤ) - 127)
      = 2 ^ (23 : ℤ) * 2 ^ ((f32Exponent b : ℤ) - 150) := by rw [← zpow_add₀ two_ne_zero]; congr 1; ring
    _ ≤ f32Significand b * 2 ^ ((f32Exponent b : ℤ) - 150) := by gcongr
    _ = |f32Value b| := (abs_f32Value b).symm

/-- A larger exponent makes a larger magnitude. -/
theorem f32Exponent_le_of_abs_le {b c : BitVec 32} (h : |f32Value b| ≤ |f32Value c|) :
    f32Exponent b ≤ f32Exponent c := by
  by_contra! hlt
  have hc : 1 ≤ f32Exponent c := le_max_left _ _
  have hpow : (2 : ℚ) ^ ((f32Exponent c : ℤ) - 126) ≤ 2 ^ ((f32Exponent b : ℤ) - 127) :=
    zpow_le_zpow_right₀ one_le_two (by omega)
  have hb := le_abs_f32Value (b := b) (by omega)
  linarith [abs_f32Value_lt c]

/-- Exponent, significand and sign determine a binary32. -/
theorem eq_of_significand {b c : BitVec 32} (hs : b.msb = c.msb) (he : f32Exponent b = f32Exponent c)
    (hm : f32Significand b = f32Significand c) : b = c := by
  have hb := (b.extractLsb' 0 23).isLt
  have hc := (c.extractLsb' 0 23).isLt
  obtain ⟨hexponent, hfraction⟩ : (b.extractLsb' 23 8).toNat = (c.extractLsb' 23 8).toNat
      ∧ (b.extractLsb' 0 23).toNat = (c.extractLsb' 0 23).toNat := by
    simp only [f32Exponent, f32Significand] at he hm
    split at hm <;> split at hm <;> omega
  rw [← f32OfFields_self b, ← f32OfFields_self c, hs, hexponent, hfraction]

/-- No two binary32 have the same value, but for the two zeros. -/
theorem eq_of_f32Value_eq {b c : BitVec 32} (h : f32Value b = f32Value c) (h0 : f32Value b ≠ 0) : b = c := by
  have habs : |f32Value b| = |f32Value c| := congrArg abs h
  have he : f32Exponent b = f32Exponent c :=
    le_antisymm (f32Exponent_le_of_abs_le habs.le) (f32Exponent_le_of_abs_le habs.ge)
  have hpow : (2 : ℚ) ^ ((f32Exponent c : ℤ) - 150) ≠ 0 := by positivity
  have hm : f32Significand b = f32Significand c := by
    rw [abs_f32Value, abs_f32Value, he] at habs
    exact_mod_cast mul_right_cancel₀ hpow habs
  have hs : signFactor b.msb = signFactor c.msb := by
    have hmag : (f32Significand c : ℚ) * (2 : ℚ) ^ ((f32Exponent c : ℤ) - 150) ≠ 0 := by
      rw [← abs_f32Value, ← h]
      exact abs_ne_zero.mpr h0
    rw [f32Value_eq, f32Value_eq c, he, hm] at h
    exact_mod_cast mul_right_cancel₀ hmag h
  exact eq_of_significand (signFactor_injective hs) he hm

/-- From `2^x` on every binary32 is a multiple of the unit of a significand with exponent `x`. -/
theorem f32Value_multiple_or_small (b : BitVec 32) (x : ℤ) :
    (∃ k : ℤ, f32Value b = k * (2 : ℚ) ^ (x - 23)) ∨ |f32Value b| < 2 ^ x := by
  rcases le_or_gt (x - 23) ((f32Exponent b : ℤ) - 150) with h | h
  · obtain ⟨n, hn⟩ := Int.eq_ofNat_of_zero_le (sub_nonneg.mpr h)
    refine .inl ⟨signFactor b.msb * (f32Significand b * 2 ^ n), ?_⟩
    rw [f32Value_eq, eq_add_of_sub_eq hn, zpow_add₀ two_ne_zero, zpow_natCast]
    push_cast
    ring
  · exact .inr ((abs_f32Value_lt b).trans_le (zpow_le_zpow_right₀ one_le_two (by omega)))

/-! ## The average power as a binary32 -/

section Rounded

variable {q : ℚ} {x : ℤ} {s : Nat}

theorem signFactor_mul_abs (q : ℚ) : signFactor (decide (q < 0)) * |q| = q := by
  rcases lt_or_ge q 0 with h | h
  · simp [signFactor, h, abs_of_neg]
  · simp [signFactor, h, abs_of_nonneg]

/-- With the sign of `q` a distance to a part of `q` is one of magnitudes. -/
theorem abs_signFactor_mul_sub (q m u : ℚ) : |signFactor (decide (q < 0)) * m - q / u| = |m - |q| / u| := by
  have hsign : |(signFactor (decide (q < 0)) : ℚ)| = 1 := by exact_mod_cast abs_signFactor _
  have hfactor : signFactor (decide (q < 0)) * m - q / u = signFactor (decide (q < 0)) * (m - |q| / u) := by
    rw [mul_sub, ← mul_div_assoc, signFactor_mul_abs]
  rw [hfactor, abs_mul, hsign, one_mul]

/-- A rounded significand has 24 bits, or is the next power of two. -/
theorem Rounded.significand_bounds (r : Rounded q x s) : 2 ^ 23 ≤ s ∧ s ≤ 2 ^ 24 := by
  have hunit : (0 : ℚ) < 2 ^ (x - 23) := by positivity
  have hlower : (2 : ℚ) ^ 23 ≤ |q| / 2 ^ (x - 23) := by
    rw [le_div_iff₀ hunit, ← zpow_natCast, ← zpow_add₀ two_ne_zero]
    exact (congrArg _ (by omega)).trans_le r.lower
  have hupper : |q| / 2 ^ (x - 23) < (2 : ℚ) ^ 24 := by
    rw [div_lt_iff₀ hunit, ← zpow_natCast, ← zpow_add₀ two_ne_zero]
    exact r.upper.trans_eq (congrArg _ (by omega))
  obtain ⟨hlo, hhi⟩ := abs_le.mp r.sig.close
  have hs : (2 ^ 23 : ℚ) < s + 1 ∧ (s : ℚ) < 2 ^ 24 + 1 := by constructor <;> linarith
  norm_cast at hs
  omega

/-- A significand rounded up to `2^24` carries into the exponent. -/
theorem f32OfFields_carry (negative : Bool) (ex : Nat) :
    f32OfFields negative ex (2 ^ 24 - 2 ^ 23) = f32OfFields negative (ex + 1) 0 :=
  congrArg (BitVec.ofNat 32) (by omega)

/-- A binary32 with these fields is finite, and its last bit is that of the fraction (41_decoders R139). -/
theorem f32OfFields_finite (negative : Bool) {ex fr : Nat} (hex : ex < 255) (hfr : fr < 2 ^ 23) :
    (f32OfFields negative ex fr).extractLsb' 23 8 ≠ 255#8 ∧ (f32OfFields negative ex fr).toNat % 2 = fr % 2 := by
  constructor
  · intro h
    have hfield := f32OfFields_exponent (negative := negative) (Nat.lt_succ_of_lt hex) hfr
    rw [h] at hfield
    exact hex.ne hfield.symm
  · rw [f32OfFields_toNat (Nat.lt_succ_of_lt hex) hfr]
    cases negative <;> simp only [f32Sign_true, f32Sign_false] <;> omega

/-- The view is finite, its value the rounded significand times its unit, and its last bit that of the significand. -/
theorem f32OfFields_of_significand (negative : Bool) (hlo : -126 ≤ x) (hhi : x ≤ 126) (h23 : 2 ^ 23 ≤ s)
    (h24 : s ≤ 2 ^ 24) :
    let b := f32OfFields negative (x + 127).toNat (s - 2 ^ 23)
    b.extractLsb' 23 8 ≠ 255#8 ∧ b.toNat % 2 = s % 2
      ∧ f32Value b = signFactor negative * s * (2 : ℚ) ^ (x - 23) := by
  obtain ⟨e, he⟩ : ∃ e : Nat, (e : ℤ) = x + 127 := ⟨(x + 127).toNat, by omega⟩
  have hsign : ((if negative then -1 else 1 : ℚ)) = signFactor negative := by cases negative <;> simp [signFactor]
  have hx : x - 23 = (e : ℤ) - 150 := by omega
  rw [← he, Int.toNat_natCast, hx]
  rcases h24.lt_or_eq with hlt | rfl
  · have hfr : s - 2 ^ 23 < 2 ^ 23 := by omega
    obtain ⟨hfin, hbit⟩ := f32OfFields_finite negative (ex := e) (by omega) hfr
    refine ⟨hfin, by omega, ?_⟩
    rw [f32Value_f32OfFields (by omega) (by omega) hfr, hsign, Nat.add_sub_cancel' h23, mul_assoc]
  · obtain ⟨hfin, hbit⟩ := f32OfFields_finite negative (ex := e + 1) (fr := 0) (by omega) (by omega)
    rw [f32OfFields_carry]
    refine ⟨hfin, hbit, ?_⟩
    rw [f32Value_f32OfFields (by omega) (by omega) (by omega), hsign, mul_assoc, Nat.cast_succ,
      add_sub_right_comm, zpow_add_one₀ two_ne_zero]
    push_cast
    ring

/-- For every binary32 there is a multiple of the unit that is at least as close to `q`, and closer if it is not
that binary32 itself. -/
theorem Rounded.exists_multiple (r : Rounded q x s) (c : BitVec 32) :
    ∃ k : ℤ, |k * (2 : ℚ) ^ (x - 23) - q| ≤ |f32Value c - q|
      ∧ (|f32Value c - q| = |k * (2 : ℚ) ^ (x - 23) - q| → f32Value c = k * (2 : ℚ) ^ (x - 23)) := by
  rcases f32Value_multiple_or_small c x with ⟨k, hk⟩ | hsmall
  · exact ⟨k, by rw [hk], fun _ => hk⟩
  · refine ⟨signFactor (decide (q < 0)) * 2 ^ 23, ?_⟩
    have hpow : (2 : ℚ) ^ 23 * 2 ^ (x - 23) = 2 ^ x := by
      rw [← zpow_natCast, ← zpow_add₀ two_ne_zero]
      congr 1
      omega
    have hdist : |((signFactor (decide (q < 0)) * 2 ^ 23 : ℤ) : ℚ) * 2 ^ (x - 23) - q| = |q| - 2 ^ x := by
      have h := abs_signFactor_mul_sub q (2 ^ x) 1
      rw [div_one, div_one, abs_sub_comm _ |q|, abs_of_nonneg (sub_nonneg.mpr r.lower), ← hpow,
        ← mul_assoc] at h
      rw [← hpow, ← h]
      push_cast
      rfl
    have hfar : |q| - |f32Value c| ≤ |f32Value c - q| := by
      rw [abs_sub_comm]
      exact abs_sub_abs_le_abs_sub _ _
    rw [hdist]
    exact ⟨by linarith, fun h => by linarith⟩

/-- The rounded significand times its unit is a nearest multiple of the unit; where another is as close, the
significand is even. -/
theorem Rounded.nearest_multiple (r : Rounded q x s) {k : ℤ} (hk : k ≠ signFactor (decide (q < 0)) * s) :
    |signFactor (decide (q < 0)) * s * (2 : ℚ) ^ (x - 23) - q| ≤ |k * (2 : ℚ) ^ (x - 23) - q|
      ∧ (|k * (2 : ℚ) ^ (x - 23) - q| = |signFactor (decide (q < 0)) * s * (2 : ℚ) ^ (x - 23) - q| →
        s % 2 = 0) := by
  have hunit : (0 : ℚ) < 2 ^ (x - 23) := by positivity
  have hscale (m : ℚ) : |m * (2 : ℚ) ^ (x - 23) - q| = |m - q / 2 ^ (x - 23)| * 2 ^ (x - 23) := by
    rw [← abs_of_pos hunit, ← abs_mul, abs_of_pos hunit, sub_mul, div_mul_cancel₀ _ hunit.ne']
  have hdist := abs_signFactor_mul_sub q s (2 ^ (x - 23))
  have hclose : |((signFactor (decide (q < 0)) * s : ℤ) : ℚ) - q / 2 ^ (x - 23)| ≤ 1 / 2 := by
    push_cast
    exact hdist.trans_le r.sig.close
  obtain ⟨hle, htie⟩ := nearest_of_close hclose hk
  push_cast at hle htie
  rw [hscale, hscale]
  exact ⟨mul_le_mul_of_nonneg_right hle hunit.le,
    fun h => r.sig.even (hdist.symm.trans (htie (mul_right_cancel₀ hunit.ne' h)))⟩

/-- The exponents of the quotients of 42_energy R164 lie well inside the range of a normal binary32. -/
theorem Rounded.exponent_bounds (r : Rounded q x s) (hlo : (1 : ℚ) / 16777215 ≤ |q|) (hhi : |q| ≤ 33554431) :
    -126 ≤ x ∧ x ≤ 126 := by
  have hlo' : (2 : ℚ) ^ (-24 : ℤ) < 2 ^ (x + 1) := (hlo.trans_lt' (by norm_num)).trans r.upper
  have hhi' : (2 : ℚ) ^ x < 2 ^ (25 : ℤ) := (r.lower.trans hhi).trans_lt (by norm_num)
  rw [zpow_lt_zpow_iff_right₀ one_lt_two] at hlo' hhi'
  omega

/-- A binary32 with the value of the rounded significand is a nearest one, and where another is as close its
significand is even. -/
theorem Rounded.nearest (r : Rounded q x s) {b : BitVec 32}
    (hb : f32Value b = signFactor (decide (q < 0)) * s * (2 : ℚ) ^ (x - 23)) (c : BitVec 32) :
    |f32Value b - q| ≤ |f32Value c - q|
      ∧ (c ≠ b → |f32Value c - q| = |f32Value b - q| → s % 2 = 0) := by
  obtain ⟨k, hle, heq⟩ := r.exists_multiple c
  by_cases hk : k = signFactor (decide (q < 0)) * s
  · have hkb : k * (2 : ℚ) ^ (x - 23) = f32Value b := by
      rw [hb, hk]
      push_cast
      rfl
    rw [hkb] at hle heq
    have hne : f32Value b ≠ 0 := by
      have hs : s ≠ 0 := by have := r.significand_bounds; omega
      have hsign : signFactor (decide (q < 0)) ≠ 0 := by simp [← abs_pos, abs_signFactor]
      rw [hb]
      positivity
    exact ⟨hle, fun hcb htie => absurd (eq_of_f32Value_eq (heq htie).symm hne).symm hcb⟩
  · obtain ⟨hnear, heven⟩ := r.nearest_multiple hk
    rw [← hb] at hnear heven
    exact ⟨hnear.trans hle, fun _ htie => heven (le_antisymm (hle.trans_eq htie) hnear)⟩

end Rounded

/-- Settles O55: the view is put together from a rounded significand, and a binary32 that is no multiple of its unit
is farther away. -/
theorem averagePowerViewIsNearest : Obligations.AveragePowerViewIsNearest := by
  intro q
  refine ⟨fun h0 => if_pos (by rw [h0]; rfl), fun hlo hhi => ?_⟩
  have hq : q ≠ 0 := abs_pos.mp (hlo.trans_lt' (by norm_num))
  obtain ⟨x, s, r, hview⟩ := f32OfRat_eq_f32OfFields hq
  obtain ⟨hx, hx'⟩ := r.exponent_bounds hlo hhi
  obtain ⟨h23, h24⟩ := r.significand_bounds
  obtain ⟨hfinite, hbit, hvalue⟩ := f32OfFields_of_significand (decide (q < 0)) hx hx' h23 h24
  rw [← hview] at hfinite hbit hvalue
  refine ⟨hfinite, fun c _ => ?_, fun c _ hc htie => ?_⟩ <;> obtain ⟨hle, heven⟩ := r.nearest hvalue c
  · exact hle
  · rw [hbit, heven hc htie]

end Sys2Proof.Proofs

/-! PROOFS. The obligations on 43_management: RESET, SETADDR, PROBE and FETCHEXP. Before each of the last two the rules
of its transaction, from CHECK to its end. -/

namespace Sys2Proof.Proofs

open Sys2Proof.Machine

/-! ## RESET and SETADDR -/

/-- Settles O16: RESET ends in CHECK, and `Arch.reset` stands in IDLE already. -/
theorem resetRequest : Obligations.ResetRequest := by
  intro s
  have hx : exec .reset s = .next (finish (resultOnly .success) (resetAll (enter .check s))) := rfl
  rw [hx, finish_eq_answered]
  simp [answered, resetAll, Arch.reset]

/-- The request word of SETADDR, op 0x1 with the address in arg (30_encoding R70, R71). -/
theorem encode_setaddr (a : BusAddr) : encode (.setaddr a) = .req16 (BitVec.ofNat 16 (0x1000 + a.toNat)) := by
  refine congrArg FetchWord.req16 (BitVec.eq_of_toNat_eq ?_)
  have ha := a.isLt
  simp only [append_toNat, BitVec.toNat_ofNat]
  omega

/-- Settles O17: the word is the instruction's encoding; the operation ends in CHECK. -/
theorem setaddrRetargets : Obligations.SetaddrRetargets := by
  intro a s
  have hx : exec (.setaddr a) s = .next (finish (resultOnly .success)
      { enter .check s with arch := retarget a (enter .check s).arch }) := rfl
  refine ⟨?_, ?_⟩
  · rw [← encode_setaddr]
    exact decode_encode _
  · rw [hx, finish_eq_answered]
    simp [answered, retarget]

/-! ## PROBE -/

section ToTally

variable {s v : State} {rest : List Answer}

/-- Whatever the operation, from its tally on it makes no call and takes no answer. -/
theorem BeforeTally.world {calls : List Event} (h : BeforeTally s calls rest v) (code : Byte) (r : Result) :
    (toTally code r v).cfg = s.cfg ∧ (toTally code r v).env.script = rest
      ∧ (toTally code r v).env.inbox = s.env.inbox
      ∧ (toTally code r v).env.history = s.env.history ++ calls := by
  obtain ⟨hcfg, henv⟩ := toTally_world code r v
  refine ⟨hcfg.trans h.cfg, ?_, ?_, ?_⟩
  · rw [henv, ← h.script]
  · rw [henv, ← h.inbox]
  · rw [henv, ← h.history]

/-- A probe settles, opens a write phase and closes it with the bus released; then it stands at its status call
(43_management R172). -/
theorem transact_at_rdStatus_of_probe {code : Byte} (hop : s.flight.op = .probe)
    (hs : s.env.script = .ls code :: rest) :
    ∃ u, BeforeTally s
        [.settle s.cfg.tSettle, .openWrite s.arch.addr { opening := s.env.opens },
         .closeWrite { opening := s.env.opens } true]
        (.ls code :: rest) u
      ∧ u.arch = { s.arch with phase := .rdStatus } ∧ transact s = atRdStatus u := by
  have hns (u : State) (hu : u.env.script = s.env.script) : stalled u = false :=
    not_stalled_of_answer (hu.trans hs) rfl
  refine ⟨enter .rdStatus (callCloseWrite true (enter .wrClose (callOpenWrite
    (enter .wrOpen (callSettle (enter .settle s)))))), ⟨by simp, by simp, by simp [hs], by simp, by simp, by simp⟩,
    by simp, ?_⟩
  rw [transact, atSettle_of_not_stalled (hns _ (by simp)), atWrOpen_of_not_stalled (hns _ (by simp)),
    if_pos (by simp [hop]), atWrClose_of_not_stalled (hns _ (by simp)), if_pos (by simp [hop])]

/-- The code a probe asks for is tallied as it is (43_management R172). -/
theorem transact_of_probe {code : Byte} (hop : s.flight.op = .probe) (hs : s.env.script = .ls code :: rest) :
    ∃ v, BeforeTally s
        [.settle s.cfg.tSettle, .openWrite s.arch.addr { opening := s.env.opens },
         .closeWrite { opening := s.env.opens } true, .lastStatus code]
        rest v
      ∧ v.arch = { s.arch with phase := .rdStatus }
      ∧ transact s = toTally code .failure v := by
  obtain ⟨u, hu, harch, he⟩ := transact_at_rdStatus_of_probe hop hs
  have hstatus : statusAnswer u = (code, { u with env := { u.env with script := rest } }) := by
    simp [statusAnswer, hu.script]
  refine ⟨logEvent (.lastStatus code) { u with env := { u.env with script := rest } },
    ⟨hu.op, hu.cfg, rfl, hu.inbox, hu.responses, by simp [hu.history]⟩, harch, ?_⟩
  rw [he, atRdStatus_of_not_stalled (not_stalled_of_answer hu.script rfl), callLastStatus, hstatus]
  simp only [if_pos (hu.op.trans hop)]

/-- A probe, and an operation on a row that is not of kind ENERGY, ends at its tally (40_transaction R113). -/
theorem toTally_of_not_due (code : Byte) (r : Result)
    (h : v.flight.op = .probe ∨ (curRow v).kind ≠ kindEnergy) :
    toTally code r v = conclude (tally code (enter .tally { v with
      flight := { v.flight with code := code, result := r } })) := by
  have hrow : curRow (tally code (enter .tally { v with
      flight := { v.flight with code := code, result := r } })) = curRow v := rfl
  rw [toTally, atTally, afterTally, if_neg]
  · rfl
  · rcases h with hop | hk
    · simp [energyDue, tally, hop]
    · simp [energyDue, hrow, hk]

/-- After its tally a probe of code `ST_SUCCESS` sets `EXISTS`, and its result is read from the code and the tallied
`EXISTS` (43_management R172). -/
theorem toTally_probe (code : Byte) (r : Result) (hop : v.flight.op = .probe) :
    (toTally code r v).arch = { (tally code v).arch with
        existsFlag := (tally code v).arch.existsFlag || code == stSuccess
        phase := .idle }
      ∧ (toTally code r v).env.responses =
        v.env.responses ++ [resultOnly (probeResult code (tally code v).arch.existsFlag)] := by
  rw [toTally_of_not_due code r (.inl hop)]
  by_cases hc : code = stSuccess <;> simp [conclude, tally, hop, latchProbe, hc]

end ToTally

/-- Settles O18: `transact_of_probe`, then `toTally_probe`; the tally reads what CHECK left as it was. -/
theorem probeOutcome : Obligations.ProbeOutcome := by
  intro s code rest hs
  obtain ⟨v, hv, harch, ht⟩ := transact_of_probe (s := start .probe s) rfl hs
  obtain ⟨hend, hresp⟩ := toTally_probe (v := v) code .failure hv.op
  obtain ⟨hcfg, hscript, hinbox, hhist⟩ := hv.world code .failure
  refine ⟨toTally code .failure v, congrArg Host.Outcome.next ht, ?_, hcfg, hscript, hinbox, hhist, ?_⟩
  · rw [hend, tally, tallyAs_arch, harch, hv.cfg]
    rfl
  · rw [hresp, hv.responses, tally, tallyAs_arch, harch, hv.cfg]
    rfl

/-! ## FETCHEXP from CHECK on -/

/-- The state in which a FETCHEXP leaves CHECK, the mode row latched (43_management R173). -/
abbrev begunFetchexp (i : BitVec 8) (s : State) : State :=
  start .fetchexp { s with arch := { s.arch with curIdx := i } }

/-- Without a mode command a FETCHEXP leaves CHECK refused (43_management R173). -/
theorem execFetchexp_of_none {s : State} (hm : s.cfg.idxVmode = none) :
    exec .fetchexp s = .next (refuse (start .fetchexp s)) := by
  simp [exec, execFetchexp, beginFetchexp, hm]

section Fetchexp

variable {s : State} {i : BitVec 8} {row : CommandSpec}

/-- With a mode command in the table a FETCHEXP latches its index and looks at `EXISTS` (43_management R173). -/
theorem execFetchexp_of_mode (hm : s.cfg.idxVmode = some i) (hi : i.toNat < s.cfg.table.length) :
    exec .fetchexp s = .next (checkFetchexp (begunFetchexp i s)) := by
  have hn : ¬ s.cfg.nCmds ≤ i.toNat := Nat.not_le.mpr hi
  simp only [exec, execFetchexp, beginFetchexp, start_cfg, hm, hn, if_false]
  rfl

/-- With a mode command and a device a FETCHEXP transacts on the mode row (43_management R173). -/
theorem execFetchexp_of_exists (hm : s.cfg.idxVmode = some i) (hrow : s.cfg.table[i.toNat]? = some row)
    (he : s.arch.existsFlag = true) : exec .fetchexp s = .next (transact (begunFetchexp i s)) := by
  obtain ⟨hlt, -⟩ := List.getElem?_eq_some_iff.mp hrow
  rw [execFetchexp_of_mode hm hlt, checkFetchexp, if_pos (by simp [he])]

/-- The row in use is the mode row (43_management R173). -/
theorem curRow_begunFetchexp (h : s.cfg.table[i.toNat]? = some row) : curRow (begunFetchexp i s) = row :=
  curRow_begunCmd (s := s) h

end Fetchexp

/-- Settles O33: both ways a FETCHEXP ends in CHECK. -/
theorem fetchexpWithoutModeCommandOrDevice : Obligations.FetchexpWithoutModeCommandOrDevice := by
  refine ⟨fun s hm => ?_, fun s i hm hi he => ?_⟩
  · rw [execFetchexp_of_none hm, refuse, finish_start]
  · have habsent : checkFetchexp (begunFetchexp i s) = finish (resultOnly .absent)
        (start .fetchexp { s with arch := { s.arch with curIdx := i, expValid := false } }) := by
      simp only [checkFetchexp, start_arch, he, Bool.false_eq_true, if_false]
      rfl
    rw [execFetchexp_of_mode hm hi, habsent, finish_start]

/-! ## FETCHEXP by the transport's answers -/

/-- The failure of a FETCHEXP leaves what its tally leaves, and clears `EXP_VALID` (43_management R173). -/
theorem toTally_failure_fetchexp {v : State} (code : Byte) (h : v.flight.op = .fetchexp) :
    (toTally code .failure v).arch = { (tally code v).arch with expValid := false, phase := .idle } := by
  rw [toTally_failure code v (by simp [h])]
  simp [h, tally]

/-- The success of a FETCHEXP on a row that runs no accumulator leaves what its tally leaves, and the exponent of the
byte stored (43_management R173). -/
theorem toTally_success_fetchexp {v : State} (hop : v.flight.op = .fetchexp) (hk : (curRow v).kind ≠ kindEnergy) :
    (toTally stSuccess .success v).arch = { (tallyAs .success stSuccess v).arch with
      vexp := modeExp (readRaw v.arch.raw 0), expValid := true, phase := .idle } := by
  rw [toTally_of_not_due _ _ (.inr hk)]
  simp [conclude, tally, statusMap, latchExponent, hop]

/-- A FETCHEXP whose response is stored leaves what a CMD on the mode row leaves, and the exponent of the first byte
(43_management R173). -/
theorem fetchexp_of_response {s : State} {i : BitVec 8} {row : CommandSpec} {b : Byte} {bs : List Byte}
    {rest : List Answer} (hm : s.cfg.idxVmode = some i) (hrow : s.cfg.table[i.toNat]? = some row)
    (hk : row.kind = kindByte) (he : s.arch.existsFlag = true)
    (hs : s.env.script = .cw 1 :: .rd (b :: bs) 0x00 :: rest) (hlen : bs.length < 17) :
    ∃ t, exec .fetchexp s = .next t
      ∧ t.arch = { storedByCmd row i (b :: bs) s.arch with vexp := modeExp b, expValid := true }
      ∧ t.cfg = s.cfg ∧ t.env.script = rest ∧ t.env.inbox = s.env.inbox
      ∧ t.env.history = s.env.history ++ transactionCalls s row (b :: bs) 0x00 []
      ∧ t.env.responses = s.env.responses ++ [resultOnly .success] := by
  obtain ⟨v, hv, harch, ht⟩ := transact_of_response (s := begunFetchexp i s) (by simp) hs
    (readOk_of_length (Nat.le_add_left 1 _) hlen)
  have hrowv : curRow v = row := by
    rw [curRow, harch, hv.cfg]
    exact curRow_begunFetchexp hrow
  rw [curRow_begunFetchexp hrow] at hv harch
  have hbyte : readRaw v.arch.raw 0 = b := by
    have hascii : row.kind ≠ kindAscii := by rw [hk]; decide
    rw [harch]
    simp [storeResponse, hascii, readRaw_storeBytes]
  refine ⟨_, ht ▸ execFetchexp_of_exists hm hrow he, ?_, hv.ends (by simp) stSuccess .success⟩
  rw [toTally_success_fetchexp hv.op (by rw [hrowv, hk]; decide), tallyAs_success, hbyte, harch]
  rfl

/-- Settles O34: `fetchexp_of_response`, with the exponent as a number and RAW byte by byte. -/
theorem fetchexpLatchesTheExponent : Obligations.FetchexpLatchesTheExponent := by
  intro s i row b bs rest hm hrow hk he hs hlen
  have h17 : (b :: bs).length ≤ 17 := hlen
  obtain ⟨t, hx, harch, hends⟩ := fetchexp_of_response hm hrow hk he hs hlen
  rw [storedByCmd_of_not_ascii (by rw [hk]; decide), hk] at harch
  refine ⟨t, hx, ?_, fun k => ?_, ?_, hends⟩
  · rw [harch]
    exact modeExp_toInt b
  · rw [harch]
    exact readRaw_stored _ h17 k
  · rw [harch]
    rfl

/-- Settles O35: `transact_of_incomplete` and `transact_of_readFailure`, as for a CMD, with the end of a FETCHEXP. -/
theorem fetchexpFailsAsACmdDoes : Obligations.FetchexpFailsAsACmdDoes := by
  constructor
  · intro s i row n rest hm hrow he hs hn hw
    obtain ⟨v, hv, harch, ht⟩ := transact_of_incomplete (s := begunFetchexp i s) (by simp) hs hn hw
    rw [curRow_begunFetchexp hrow] at hv
    refine ⟨_, ht ▸ execFetchexp_of_exists hm hrow he, ?_, hv.ends (by simp) stWrIncomplete .failure⟩
    have htally : tally stWrIncomplete v = tallyAs .wrIncomplete stWrIncomplete v := rfl
    rw [toTally_failure_fetchexp _ hv.op, htally, tallyAs_of_keeps (by decide) rfl, harch]
    rfl
  · intro s i row bytes st code rest hm hrow he hs hbad
    obtain ⟨v, hv, harch, ht⟩ :=
      transact_of_readFailure (s := begunFetchexp i s) (by simp) hs (readOk_eq_false hbad)
    rw [curRow_begunFetchexp hrow] at hv
    refine ⟨_, ht ▸ execFetchexp_of_exists hm hrow he, ?_, hv.ends (by simp) (failureCode code) .failure⟩
    rw [toTally_failure_fetchexp _ hv.op, tally, tallyAs_arch, harch, hv.cfg]
    rfl

/-! ## The exponent after a failure -/

/-- What is answered after the tally of a CMD or a FETCHEXP is the result the transaction reached (40_transaction
R114). -/
theorem result_of_answered {s v : State} {code : Byte} {r r' : Result} (h : Reaches s code r v)
    (hop : s.flight.op ≠ .probe)
    (hresp : (toTally code r v).env.responses = s.env.responses ++ [resultOnly r']) : r = r' := by
  obtain ⟨x, hx, hxr⟩ := toTally_responses code r v
  rw [hx, h.responses, hxr (by rwa [h.op])] at hresp
  simpa [resultOnly] using hresp

/-- A FETCHEXP that answers anything but Success, from whatever phase it went on, leaves the exponent invalid and
`VEXP` as it was (43_management R173). -/
theorem exponent_of_unsuccessful {s t : State} {r : Result} (c : Comes s t) (hop : s.flight.op = .fetchexp)
    (hresp : t.env.responses = s.env.responses ++ [resultOnly r]) (hr : r ≠ .success) :
    t.arch.expValid = false ∧ t.arch.vexp = s.arch.vexp := by
  rcases c with w | ⟨code, r', v, hv, rfl⟩
  · rw [w.responses] at hresp
    simp at hresp
  · obtain rfl := result_of_answered hv (by simp [hop]) hresp
    rcases hv.arch with ⟨rfl, ha, -⟩ | ⟨hs, -⟩
    · have hvop : v.flight.op = .fetchexp := hv.op.trans hop
      rw [toTally_failure_fetchexp code hvop, tally, tallyAs_arch, ha]
      exact ⟨rfl, rfl⟩
    · exact absurd hs hr

/-- Settles O36: a refused FETCHEXP has another record, an absent one clears the flag in CHECK, and a transaction is
`exponent_of_unsuccessful`, begun or resumed. -/
theorem failedFetchexpInvalidatesTheExponent : Obligations.FailedFetchexpInvalidatesTheExponent := by
  constructor
  · intro s t r hx hresp hr
    cases hx
    rcases beginFetchexp_cases (start .fetchexp s) with ⟨-, e⟩ | ⟨i, -, -, ⟨-, e⟩ | ⟨-, e⟩⟩ <;>
      rw [e] at hresp ⊢
    · have hrefused : Result.refused = r := by simpa [resultOnly] using hresp
      subst hrefused
      simp at hr
    · exact ⟨rfl, rfl⟩
    · refine exponent_of_unsuccessful (s := begunFetchexp i s) (comes_transact _) rfl hresp ?_
      rintro rfl
      simp at hr
  · intro s t hw hop hx hresp
    rw [step_of_waiting hw] at hx
    cases hx
    exact exponent_of_unsuccessful (comes_resume hw) hop hresp (by simp)

end Sys2Proof.Proofs

/-! PROOFS. The obligations on 60_exceptions: every step gives a next state, and a failed CMD or FETCHEXP changes no
data. Before each the rules it rests on. -/

namespace Sys2Proof.Proofs

open Sys2Proof.Machine

/-! ## No step faults or is refused -/

/-- A fetched instruction gives a next state, since `exec` does (60_exceptions R180). -/
theorem runInstr_next (i : Instr) (s : State) : ∃ t, runInstr i s = .next t := by
  obtain ⟨t, ht⟩ := exec_next i (accept s)
  exact ⟨continueFrom s.arch.phase t, by simp [runInstr, ht]⟩

/-- A step on what was fetched gives a next state, on an illegal word too (43_management R175). -/
theorem runFetched_next (s : State) : ∃ t, runFetched s = .next t := by
  cases hf : fetch s with
  | nothing => exact ⟨s, by simp [runFetched, hf]⟩
  | carryOn => exact ⟨resume s, by simp [runFetched, hf]⟩
  | word w =>
    cases hd : decode w with
    | ok i =>
      obtain ⟨t, ht⟩ := runInstr_next i s
      exact ⟨t, by simp [runFetched, hf, hd, ht]⟩
    | error e => exact ⟨reject s.arch.phase (accept s), by simp [runFetched, hf, hd]⟩

/-- Settles O13: the reset signal acts, or what was fetched is run. -/
theorem everyStepGivesANextState : Obligations.EveryStepGivesANextState := by
  intro s
  cases hr : resetDue s with
  | true => exact ⟨resetSignal (takeReset s), by simp [step, hr]⟩
  | false =>
    rw [step_of_not_resetDue hr]
    exact runFetched_next s

/-! ## A failed transaction -/

/-- Whatever the operation, an end with a Success latched answers Success: a probe's too, by its code
(43_management R172). -/
theorem conclude_success_responses {s : State} (hr : s.flight.result = .success)
    (hc : s.flight.code = stSuccess) :
    (conclude s).env.responses = s.env.responses ++ [resultOnly .success] := by
  unfold conclude
  cases s.flight.op with
  | cmd | decode => simp [hr]
  | fetchexp => simp [hr, latchExponent_env]
  | probe => simp [hc, probeResult, latchProbe_env]

/-- The success tally ends in the answer Success, with or without the energy update (40_transaction R113, R114). -/
theorem toTally_success_responses (s : State) :
    (toTally stSuccess .success s).env.responses = s.env.responses ++ [resultOnly .success] := by
  unfold toTally atTally afterTally
  split <;> exact conclude_success_responses rfl rfl

/-- A transaction, begun or resumed, that waits or answers Failure changes no data (60_exceptions R188): only a
success stores, and a success answers otherwise. -/
theorem sameData_of_comes {s t : State} (c : Comes s t)
    (hresp : t.env.responses = s.env.responses ++ [resultOnly .failure] ∨ t.env.responses = s.env.responses) :
    SameData s t := by
  rcases c with w | ⟨code, r, v, hv, rfl⟩
  · rw [SameData, w.arch]
  · rcases hv.arch with ⟨rfl, ha, -⟩ | ⟨rfl, rfl, -⟩
    · have hfail := toTally_failure_sameData code v
      rw [SameData, ha] at hfail
      exact hfail
    · rw [toTally_success_responses, hv.responses] at hresp
      simp [resultOnly] at hresp

/-- Settles O27: what leaves from CHECK, refused or absent, changes no data whatever it answers, and what CHECK
latches before a transaction is no data; the transaction is `sameData_of_comes`, begun or resumed. -/
theorem failedTransactionKeepsTheData : Obligations.FailedTransactionKeepsTheData := by
  constructor
  · rintro s t i (⟨idx, rfl⟩ | rfl) hx hresp
    · rcases execCmd_cases hx with ⟨-, rfl⟩ | ⟨-, -, rfl⟩ | ⟨-, -, rfl⟩
      · rfl
      · rfl
      · exact sameData_of_comes (s := begunCmd idx s) (comes_transact _) hresp
    · cases hx
      rcases beginFetchexp_cases (start .fetchexp s) with ⟨-, e⟩ | ⟨i, -, -, ⟨-, e⟩ | ⟨-, e⟩⟩ <;>
        rw [e] at hresp ⊢
      · rfl
      · rfl
      · exact sameData_of_comes (s := begunFetchexp i s) (comes_transact _) hresp
  · intro s t hw hx hresp
    rw [step_of_waiting hw] at hx
    cases hx
    exact sameData_of_comes (comes_resume hw) hresp

end Sys2Proof.Proofs

/-! PROOFS. The obligations on 70_reset_and_hazards: the reset signal in any phase, and the idle block. Before them
when the signal is due and what its step gives. -/

namespace Sys2Proof.Proofs

open Sys2Proof.Machine

/-! ## The reset signal -/

/-- In IDLE the reset signal is due when it heads the inbox (log 5). -/
theorem resetDue_of_idle {s : State} (hp : s.arch.phase = .idle) :
    resetDue s = true ↔ s.env.inbox.head? = some .rst := by
  simp [resetDue, hp]

/-- A reset signal that is due pre-empts whatever stands before the sequencer (70 R200). -/
theorem step_of_resetDue {s : State} (hr : resetDue s = true) : step s = .next (resetSignal (takeReset s)) := by
  rw [step, if_pos hr]

/-- The reset signal leaves the block as right after reset (70 R200, R201). -/
theorem resetSignal_arch (s : State) : (resetSignal s).arch = Arch.reset := rfl

/-- Outside the block the reset signal leaves its mark and no response (70 R200). -/
theorem resetSignal_env (s : State) :
    (resetSignal s).env = { s.env with
      history := s.env.history ++ [.rst]
      phases := s.env.phases ++ [.idle] } := rfl

/-- The reset signal taken is the oldest; what was offered before and after it stays, in order. -/
theorem takeReset_inbox {s : State} {before rest : List HostInput} (hi : s.env.inbox = before ++ .rst :: rest)
    (hn : .rst ∉ before) : (takeReset s).env.inbox = before ++ rest := by
  rw [takeReset_env, hi, List.erase_append_right _ hn, List.erase_cons_head]

/-- Settles O11: the signal is due, at the head in IDLE or anywhere in a busy phase, and its step is
`resetSignal` of the state it is taken from. -/
theorem resetSignalActsInAnyPhase : Obligations.ResetSignalActsInAnyPhase := by
  intro s before rest hi hn hplace
  have hr : resetDue s = true := by
    by_cases hp : s.arch.phase = .idle
    · obtain rfl : before = [] := hplace.resolve_right (not_not_intro hp)
      simp [resetDue_of_idle hp, hi]
    · simp [resetDue_of_busy hp, hi]
  exact ⟨_, step_of_resetDue hr, resetSignal_arch _, rfl, by rw [resetSignal_env, takeReset_inbox hi hn],
    rfl, rfl, rfl⟩

/-! ## The idle block -/

/-- In IDLE with nothing offered there is nothing to fetch (70 R200). -/
theorem fetch_of_empty {s : State} (hp : s.arch.phase = .idle) (hi : s.env.inbox = []) : fetch s = .nothing := by
  simp [fetch, hp, hi]

/-- Settles O12: no reset signal is due, and nothing is fetched. -/
theorem idleBlockWaits : Obligations.IdleBlockWaits := by
  intro s hp hi
  have hr : resetDue s = false := by simp [resetDue, hp, hi]
  rw [step_of_not_resetDue hr, runFetched, fetch_of_empty hp hi]

end Sys2Proof.Proofs
